-- ==== Sys2Proof/Word.lean ====
section
/-! DEFINITION. The two word types of the core: the byte of the stream space and the sample of the PCM space. -/

namespace Sys2Proof

/-- The addressable unit of the stream space (20_memory R60). -/
abbrev Byte := BitVec 8

/-- A PCM sample: a signed 16-bit two's-complement integer (20_memory R69). -/
abbrev Sample := BitVec 16

end Sys2Proof
end

