-- ==== Sys2Proof/Syntax.lean ====
section
/-! DEFINITION. The commands of the stream (30_encoding R91, R104): one constructor per mnemonic of
spec/opcode_table.json. The table's two RSVD rows and four REF rows are one command each, split there only because a
mask and a match must express the ranges (30_encoding R111). -/

namespace Sys2Proof

/-- The eight registers of RF in the order of their numbers `r` (10_state R24). -/
inductive Reg where
  | tone0 | att0 | tone1 | att1 | tone2 | att2 | nctrl | natt
deriving DecidableEq, Repr

/-- One command, its operands as the encoding's fields hold them. -/
inductive Instr where
  /-- LATCH TONE0, n (40_register_commands R122). -/
  | latchTone0 (n : BitVec 4)
  /-- LATCH ATT0, n (R123). -/
  | latchAtt0 (n : BitVec 4)
  /-- LATCH TONE1, n (R122). -/
  | latchTone1 (n : BitVec 4)
  /-- LATCH ATT1, n (R123). -/
  | latchAtt1 (n : BitVec 4)
  /-- LATCH TONE2, n (R122). -/
  | latchTone2 (n : BitVec 4)
  /-- LATCH ATT2, n (R123). -/
  | latchAtt2 (n : BitVec 4)
  /-- LATCH NCTRL, n (R124): all four bits of the nibble, of which the register takes three. -/
  | latchNctrl (n : BitVec 4)
  /-- LATCH NATT, n (R123). -/
  | latchNatt (n : BitVec 4)
  /-- DATA d (R126). -/
  | data (d : BitVec 6)
  /-- END (41_stream_control R132, R133). -/
  | endStream
  /-- LOOP (R135, R136). -/
  | loop
  /-- RSVD k, k in 2..7 (R137). -/
  | rsvd (k : BitVec 3)
  /-- REF len, off, len in 4..51 (42_back_reference R154, R155). -/
  | ref (len : BitVec 6) (off : BitVec 16)
  /-- EOF f with f = nnn + 1 (41_stream_control R138). -/
  | eof (nnn : BitVec 3)
deriving DecidableEq, Repr

end Sys2Proof
end

