-- ==== Sys2Proof/WellFormed.lean ====
section
/-! DEFINITION. The commands the byte classes can spell (00_scope R9, 30_encoding R96, R100). -/

namespace Sys2Proof

/-- The operand ranges of 30_encoding R104: RSVD's k is 2..7 and REF's len is 4..51; every other field admits every
value of its width. -/
def Instr.wellFormed : Instr → Bool
  | .latchTone0 _ | .latchAtt0 _ | .latchTone1 _ | .latchAtt1 _ | .latchTone2 _ | .latchAtt2 _ => true
  | .latchNctrl _ | .latchNatt _ | .data _ | .endStream | .loop | .eof _ => true
  | .rsvd k => decide (2 ≤ k.toNat)
  | .ref len _ => decide (4 ≤ len.toNat ∧ len.toNat ≤ 51)

end Sys2Proof
end

