-- ==== Sys2Proof/Decode.lean ====
section
/-! DEFINITION. The decoder and the encoder of the byte classes (30_encoding R91 to R102), and the assembler notation
(R104, R105). -/

namespace Sys2Proof

/-- Why a byte sequence is no command: it is empty, or a REF lacks offset bytes. Every first byte is a command
(30_encoding R92), so nothing else is rejected. -/
inductive DecodeReject where
  | empty
  | truncated
deriving DecidableEq, Repr

/-- The length of a command, from its first byte alone (30_encoding R102). -/
def commandLength (b : Byte) : Nat := if 0x08 ≤ b.toNat ∧ b.toNat ≤ 0x37 then 3 else 1

/-- LATCH, by its register field `r = b[6:4]` (30_encoding R94, 10_state R24). -/
def decodeLatch (r : BitVec 3) (n : BitVec 4) : Instr :=
  match r.toNat with
  | 0 => .latchTone0 n
  | 1 => .latchAtt0 n
  | 2 => .latchTone1 n
  | 3 => .latchAtt1 n
  | 4 => .latchTone2 n
  | 5 => .latchAtt2 n
  | 6 => .latchNctrl n
  | _ => .latchNatt n

/-- The command whose first byte is `b`; `lo` and `hi` are the two bytes after it, read only by REF. The classes and
their order are those of DecodeStep (41_stream_control R131). -/
def decodeCommand (b lo hi : Byte) : Instr :=
  if 0x80 ≤ b.toNat then decodeLatch (b.extractLsb' 4 3) (b.extractLsb' 0 4)
  else if 0x40 ≤ b.toNat then .data (b.extractLsb' 0 6)
  else if b.toNat = 0x00 then .endStream
  else if b.toNat = 0x01 then .loop
  else if b.toNat ≤ 0x07 then .rsvd (b.extractLsb' 0 3)
  else if b.toNat ≤ 0x37 then .ref ((b - 4).extractLsb' 0 6) (hi ++ lo)
  else .eof (b.extractLsb' 0 3)

/-- The command at the head of a byte sequence and the bytes after it. -/
def decode : List Byte → Except DecodeReject (Instr × List Byte)
  | [] => .error .empty
  | b :: rest =>
    if commandLength b = 1 then .ok (decodeCommand b 0 0, rest)
    else
      match rest with
      | lo :: hi :: rest' => .ok (decodeCommand b lo hi, rest')
      | _ => .error .truncated

/-- `0x80 + 16*r + n` (30_encoding R104). -/
def latchByte (r : BitVec 3) (n : BitVec 4) : Byte := (1#1 ++ r) ++ n

/-- `0x40 + d` (30_encoding R104). -/
def dataByte (d : BitVec 6) : Byte := 1#2 ++ d

/-- `k` (30_encoding R104). -/
def rsvdByte (k : BitVec 3) : Byte := 0#5 ++ k

/-- `len + 4` (30_encoding R96, R104). -/
def refByte (len : BitVec 6) : Byte := (0#2 ++ len) + 4

/-- `0x38 + nnn` (30_encoding R98). -/
def eofByte (nnn : BitVec 3) : Byte := 7#5 ++ nnn

/-- The bytes of a command (30_encoding R104). -/
def encode : Instr → List Byte
  | .latchTone0 n => [latchByte 0 n]
  | .latchAtt0 n => [latchByte 1 n]
  | .latchTone1 n => [latchByte 2 n]
  | .latchAtt1 n => [latchByte 3 n]
  | .latchTone2 n => [latchByte 4 n]
  | .latchAtt2 n => [latchByte 5 n]
  | .latchNctrl n => [latchByte 6 n]
  | .latchNatt n => [latchByte 7 n]
  | .data d => [dataByte d]
  | .endStream => [0x00]
  | .loop => [0x01]
  | .rsvd k => [rsvdByte k]
  | .ref len off => [refByte len, off.extractLsb' 0 8, off.extractLsb' 8 8]
  | .eof nnn => [eofByte nnn]

/-- The pseudo-command `TONE c, p`: LATCH 2c, p mod 16, then DATA p div 16 (30_encoding R105). -/
def encodeTone (c : Fin 3) (p : BitVec 10) : List Byte :=
  [latchByte (BitVec.ofNat 3 (2 * c.val)) (p.extractLsb' 0 4), dataByte (p.extractLsb' 4 6)]

/-- The assembler notation of a command (30_encoding R104). -/
def Instr.asmText : Instr → String
  | .latchTone0 n => "LATCH TONE0, " ++ toString n.toNat
  | .latchAtt0 n => "LATCH ATT0, " ++ toString n.toNat
  | .latchTone1 n => "LATCH TONE1, " ++ toString n.toNat
  | .latchAtt1 n => "LATCH ATT1, " ++ toString n.toNat
  | .latchTone2 n => "LATCH TONE2, " ++ toString n.toNat
  | .latchAtt2 n => "LATCH ATT2, " ++ toString n.toNat
  | .latchNctrl n => "LATCH NCTRL, " ++ toString n.toNat
  | .latchNatt n => "LATCH NATT, " ++ toString n.toNat
  | .data d => "DATA " ++ toString d.toNat
  | .endStream => "END"
  | .loop => "LOOP"
  | .rsvd k => "RSVD " ++ toString k.toNat
  | .ref len off => "REF " ++ toString len.toNat ++ ", " ++ toString off.toNat
  | .eof nnn => "EOF " ++ toString (nnn.toNat + 1)

/-- The bytes of a word numbered as spec/opcode_table.json numbers its bits: byte k is bits 8k+7..8k, and every bit at
or above `nbits` is 0. Three bytes, the longest command. -/
def tableBytes (nbits w : Nat) : List Byte :=
  [BitVec.ofNat 8 (w % 2 ^ nbits), BitVec.ofNat 8 (w % 2 ^ nbits / 256), BitVec.ofNat 8 (w % 2 ^ nbits / 65536)]

/-- The command the decoder reads from a table word. -/
def decodeTableWord (nbits w : Nat) : Option Instr :=
  match decode (tableBytes nbits w) with
  | .ok (i, _) => some i
  | .error _ => none

end Sys2Proof
end

