-- ==== Sys2Proof/Config.lean ====
section
/-! DEFINITION. The configuration record CFG of 00_scope rule R8, less BUF and LEN (they stand in State as `stream` and
`len`), and the names of its constraints. -/

namespace Sys2Proof

/-- CFG (00_scope R8), constant over a session. Every OPEN parameter is a field under no law but its constraint, which
`Params.fieldOk` (Machine/Legal.lean) states. -/
structure Params where
  /-- LEN_MAX: the bound on LEN (D8). -/
  lenMax : Nat
  /-- CLK: the chip clock in Hz. -/
  clk : Nat
  /-- RATE: the output sample rate in Hz. -/
  rate : Nat
  /-- STEREO: interleaved stereo when true, mono when false. -/
  stereo : Bool
  /-- PANL: the left weight of each channel, the noise channel last (43_synthesis R194). -/
  panL : Vector Nat 4
  /-- PANR: the right weight of each channel. -/
  panR : Vector Nat 4
  /-- PAN_DEN: the denominator of the pan weights. -/
  panDen : Nat
  /-- OUT_DIV: the caller's output attenuation divisor (R196). -/
  outDiv : Nat
  /-- VOL: the amplitude of each attenuation (R190). -/
  vol : Vector Nat 16
  /-- TAP_MASK: the white-noise feedback taps (R187). -/
  tapMask : BitVec 16
  /-- NOISE_DIV: the noise periods of settings 0 to 2 (R185). -/
  noiseDiv : Vector Nat 3
  /-- LFSR_SEED: the reset value of the shift register. -/
  lfsrSeed : BitVec 16
  /-- LFSR_RESET_ON_NCTRL: whether LATCH NCTRL reseeds the shift register (D3). -/
  lfsrResetOnNctrl : Bool
  /-- FRAME_HZ: frames per second (R214). -/
  frameHz : Nat
  /-- FCW: the width of the frame counter; 32 by decision D7. -/
  fcw : Nat
  /-- BLOCK: sample frames per sink buffer. -/
  block : Nat
deriving DecidableEq, Repr, Inhabited

/-- The constraints of 00_scope R8 and R10, one name each: what INVALID_PARAMETER reports (60_exceptions R271). -/
inductive ConfigField where
  | len | lenMax | clk | rate | panL | panR | panDen | outDiv | vol | tapMask | noiseDiv | lfsrSeed | frameHz | fcw
  | block
  /-- The relation of R10 between VOL[0] and OUT_DIV. -/
  | headroom
deriving DecidableEq, Repr

end Sys2Proof
end

