-- ==== Sys2Proof/Machine/Legal.lean ====
section
/-! DEFINITION. What a legal configuration is (00_scope R8, R10), and the configuration of the session that
`State.reset` starts, a free value. -/

namespace Sys2Proof

/-- Every constraint, in the order of the table of 00_scope R8, R10's last. -/
def ConfigField.all : List ConfigField :=
  [.len, .lenMax, .clk, .rate, .panL, .panR, .panDen, .outDiv, .vol, .tapMask, .noiseDiv, .lfsrSeed, .frameHz, .fcw,
    .block, .headroom]

/-- Whether one constraint of 00_scope R8 and R10 holds of CFG with a buffer of `len` bytes. -/
def Params.fieldOk (p : Params) (len : Nat) : ConfigField → Bool
  | .len => decide (len ≤ p.lenMax)
  | .lenMax => decide (65536 ≤ p.lenMax)
  | .clk => decide (16 ≤ p.clk)
  | .rate => decide (1 ≤ p.rate)
  | .panL => decide (∀ c : Fin 4, p.panL[c.val] ≤ p.panDen)
  | .panR => decide (∀ c : Fin 4, p.panR[c.val] ≤ p.panDen)
  | .panDen => decide (1 ≤ p.panDen)
  | .outDiv => decide (1 ≤ p.outDiv)
  | .vol => decide (p.vol[15] = 0 ∧ 0 < p.vol[0] ∧ ∀ a : Fin 15, p.vol[a.val + 1] ≤ p.vol[a.val])
  | .tapMask => decide (p.tapMask ≠ 0)
  | .noiseDiv => decide (∀ k : Fin 3, 1 ≤ p.noiseDiv[k.val])
  | .lfsrSeed => decide (p.lfsrSeed ≠ 0)
  | .frameHz => decide (20 ≤ p.frameHz ∧ p.frameHz ≤ 100)
  | .fcw => decide (1 ≤ p.fcw)
  | .block => decide (1 ≤ p.block)
  | .headroom => decide (4 * p.vol[0] ≤ 32767 * p.outDiv)

/-- The constraints CFG breaks, in table order: empty exactly when CFG is legal. -/
def Params.violations (p : Params) (len : Nat) : List ConfigField :=
  ConfigField.all.filter fun f => !p.fieldOk len f

/-- CFG is legal (00_scope R10). -/
def Params.legal (p : Params) (len : Nat) : Bool := (p.violations len).isEmpty

/-- A configuration that is legal with an empty buffer and has FCW = 32 (10_state R33, decision D7). The defaults only
show Lean that such a configuration exists; nothing can see them through `Config.session`. -/
structure SessionParams where
  params : Params :=
    { lenMax := 65536, clk := 16, rate := 1, stereo := false, panL := .replicate 4 0, panR := .replicate 4 0,
      panDen := 1, outDiv := 1, vol := (Vector.replicate 16 0).set 0 1, tapMask := 1, noiseDiv := .replicate 3 1,
      lfsrSeed := 1, lfsrResetOnNctrl := false, frameHz := 20, fcw := 32, block := 1 }
  isLegal : params.legal 0 = true := by decide
  fcw32 : params.fcw = 32 := by decide
deriving Inhabited

/-- DESIGN CHOICE (log 3). The configuration of the session `State.reset` starts: a free value. Nothing is known of it
but that it is legal and that FCW is 32, as 00_scope R8 asks of every OPEN field. -/
opaque Config.session : SessionParams

end Sys2Proof
end

