-- ==== Sys2Proof/Machine/State.lean ====
section
/-! DEFINITION. The state of the core as plain data: CFG, the four units RF, CSD, SYN, SEQ (10_state), the PCM space
(20_memory R69) and the host's and the sink's side of the interface (30_encoding R110, 44_sequencer R222). -/

namespace Sys2Proof.Machine

/-- A sparse array: (index, value) pairs, indices strictly rising, no value equal to what an unlisted index reads as
(`unlistedCell`); `Cells.wf` states the form. -/
abbrev Cells (w : Nat) := List (Nat × BitVec w)

/-- The bytes of the stream space (20_memory R60). -/
abbrev Memory := List Host.Cell

/-- The fault codes of 60_exceptions R271. -/
inductive FaultCode where
  | msBounds | msDanglingRef | msDataNoToneLatch | msNestedRef | msReserved | invalidCall | resUnavailable
  | invalidParameter
deriving DecidableEq, Repr

/-- The four events, the only things CSD returns (00_scope R14). The value of a register write is the register's whole
new content, zero-extended (D4). -/
inductive Event where
  | registerWrite (r : Reg) (v : BitVec 10)
  | endOfFrame (f : Nat)
  | loopStart
  | endOfStream
deriving DecidableEq, Repr

/-- CSD's status (10_state R34). -/
inductive Status where
  | running
  | ended
  | faulted (code : FaultCode) (offset : Nat) (found : Option Byte)
deriving DecidableEq, Repr

/-- What one DecodeStep yields (41_stream_control R130). -/
inductive Yield where
  | nothing
  | event (e : Event)
  | fault (code : FaultCode) (offset : Nat) (found : Option Byte)
deriving DecidableEq, Repr

/-- The square-wave output polarity, +1 or -1 (10_state R39). -/
inductive Polarity where
  | plus | minus
deriving DecidableEq, Repr

/-- SEQ's states (10_state R42). -/
inductive SeqMode where
  | idle | commandProcessing | waiting | bufferWaiting | ending
deriving DecidableEq, Repr

/-- The terminal status SEQ last reported (10_state R42). -/
inductive Terminal where
  | none
  | completed
  | cancelled
  | failed (code : FaultCode)
deriving DecidableEq, Repr

/-- A host operation (30_encoding R110) with its arguments, or one of the two acts of the surroundings the operations
rest on: the caller lends Render a buffer (43_synthesis R170), the sink's driver reports that it cannot open the sink
(60_exceptions R270). -/
inductive HostCall where
  /-- Reset(CFG), with BUF and so LEN given as the bytes (70_reset_and_hazards R310). -/
  | reset (params : Params) (bytes : List Byte)
  /-- NextEvent() (41_stream_control R130). -/
  | nextEvent
  /-- Render(n, dst) (43_synthesis R170). -/
  | render (n dst : Nat)
  /-- Start() (44_sequencer R211). -/
  | start
  /-- Tick() (R212), with the sink's answers to the poll it may make: whether Sink.acquire() grants a buffer and whether
  Sink.all_idle() holds. Both are any value at each poll (R223). -/
  | tick (granted allIdle : Bool)
  /-- Cancel() (R218). -/
  | cancel
  /-- DESIGN CHOICE (log 13). The caller hands over the buffer a hand-driven Render accumulates into. -/
  | lend (samples : List Sample)
  /-- The sink could not be opened: RES_UNAVAILABLE (60_exceptions R270, R271). -/
  | sinkUnavailable
deriving DecidableEq, Repr

/-- What the last finished host operation returned to the host. -/
inductive Return where
  /-- No operation has finished since State.reset. -/
  | notYet
  /-- The operation finished and has no result of its own. -/
  | done
  /-- NextEvent returned an event. -/
  | event (e : Event)
  /-- NextEvent returned a MalformedStream fault, codes 1 to 5 (60_exceptions R274). -/
  | malformed (code : FaultCode) (offset : Nat) (found : Option Byte)
  /-- NextEvent was called out of Running (41_stream_control R140). -/
  | invalidCall
  /-- Reset was given an illegal CFG; the constraints it breaks (70_reset_and_hazards R310). -/
  | invalidParameter (broken : List ConfigField)
  /-- The sink could not be opened (60_exceptions R270). -/
  | resUnavailable
deriving DecidableEq, Repr

/-- The host operation in progress. Only NextEvent and a Tick in CommandProcessing last longer than one step, since
DecodeStep is the atomic step (41_stream_control R130). -/
inductive Active where
  | idle
  | nextEvent
  | tick
deriving DecidableEq, Repr

/-- RF, the register file (10_state R23, R24). -/
structure RegFile where
  tone0 : BitVec 10
  att0 : BitVec 4
  tone1 : BitVec 10
  att1 : BitVec 4
  tone2 : BitVec 10
  att2 : BitVec 4
  nctrl : BitVec 3
  natt : BitVec 4
deriving DecidableEq, Repr

/-- CSD, the command-stream decoder (10_state R28 to R34). -/
structure Decoder where
  /-- Stream offset of the next byte to fetch (R28). -/
  pos : Nat
  /-- Bytes that may still be fetched from the current region (R28). -/
  rem : Nat
  resumeValid : Bool
  resumePos : Nat
  resumeRem : Nat
  loopValid : Bool
  loopPos : Nat
  loopRem : Nat
  /-- The register of the most recent LATCH (R32). -/
  latched : Option Reg
  /-- FC, the frame counter, modulo 2^FCW (R33). -/
  fc : Nat
  status : Status
  /-- The local `at` of DecodeStep: the offset of the current command's first byte (41_stream_control R131). -/
  cmdAt : Nat
  /-- What the last DecodeStep yielded (41_stream_control R130). -/
  yielded : Yield
deriving DecidableEq, Repr

/-- SYN, the synthesizer (10_state R39). `cnt3` is the noise channel's counter. -/
structure Synth where
  cnt0 : Int
  cnt1 : Int
  cnt2 : Int
  cnt3 : Int
  pol0 : Polarity
  pol1 : Polarity
  pol2 : Polarity
  lfsr : BitVec 16
  acc : Nat
deriving DecidableEq, Repr

/-- SEQ, the playback sequencer (10_state R42). -/
structure Sequencer where
  mode : SeqMode
  /-- Sample frames still to render of the current wait. -/
  budget : Nat
  haveBuf : Bool
  /-- Sample frames already rendered into the current buffer. -/
  cursor : Nat
  term : Terminal
deriving DecidableEq, Repr

/-- A PCM buffer: how many slots it has and what they hold (20_memory R69). -/
structure PcmBuffer where
  slots : Nat
  cells : Cells 16
deriving DecidableEq, Repr

/-- The core, its configuration and its interface. -/
structure State where
  /-- CFG but for BUF and LEN (00_scope R8). -/
  params : Params
  /-- BUF (20_memory R60). -/
  stream : Memory
  /-- LEN. -/
  len : Nat
  rf : RegFile
  csd : Decoder
  syn : Synth
  seq : Sequencer
  /-- The PCM space: the current buffer (20_memory R69). -/
  pcm : PcmBuffer
  /-- The host operation in progress. -/
  active : Active
  /-- What the last finished host operation returned. -/
  ret : Return
  /-- The host's coming calls, first one first (log 1). -/
  calls : List HostCall
  /-- The buffers submitted to the sink, oldest first (44_sequencer R222). -/
  submitted : List PcmBuffer
deriving DecidableEq, Repr

/-- Why the machine stops with a fault: it never does. The faults of 60_exceptions R271 are next states (log 8), SYN raises
none (R273), and the model's own stops are refusals. -/
inductive Fault where
deriving DecidableEq, Repr

/-- Why the model gives a step no meaning. -/
inductive Refusal where
  /-- Raised by exec's arm of an instruction that has no meaning yet. Safe: the model stops. No arm raises it. -/
  | notModelled (mnemonic : String)
  /-- Raised by PcmAdd: the sum leaves -32768..32767, where the spec has the model refuse (20_memory R70, D28, log 11).
  Safe: the model stops. -/
  | pcmOverflow
  /-- Raised by PcmAdd: the slot is not one of the current buffer's (20_memory R69, log 12). Safe: the model stops. -/
  | pcmSlotMissing
  /-- Raised by the host act `lend` while SEQ holds a sink buffer (log 13). Safe: the model stops. -/
  | lendWhileHeld
deriving DecidableEq, Repr

/-- RF after Reset (10_state R27). -/
def RegFile.reset : RegFile :=
  { tone0 := 0, att0 := 15, tone1 := 0, att1 := 15, tone2 := 0, att2 := 15, nctrl := 0, natt := 15 }

/-- CSD after Reset with a buffer of `len` bytes (10_state R37). The resume and loop pairs are unspecified there: 0 is
this model's (DESIGN CHOICE, log 6). -/
def Decoder.reset (len : Nat) : Decoder :=
  { pos := 0, rem := len, resumeValid := false, resumePos := 0, resumeRem := 0, loopValid := false, loopPos := 0,
    loopRem := 0, latched := none, fc := 0, status := .running, cmdAt := 0, yielded := .nothing }

/-- SYN after Reset (10_state R39). -/
def Synth.reset (seed : BitVec 16) : Synth :=
  { cnt0 := 0, cnt1 := 0, cnt2 := 0, cnt3 := 0, pol0 := .plus, pol1 := .plus, pol2 := .plus, lfsr := seed, acc := 0 }

/-- SEQ after Reset (10_state R43). -/
def Sequencer.reset : Sequencer :=
  { mode := .idle, budget := 0, haveBuf := false, cursor := 0, term := .none }

/-- No buffer: the PCM space has no slot. -/
def PcmBuffer.empty : PcmBuffer := { slots := 0, cells := [] }

/-- The state right after Reset (10_state R48) of a session whose CFG is the free value `Config.session`, with an empty
buffer BUF and no host call waiting (log 3, log 4). -/
def State.reset : State :=
  { params := Config.session.params
    stream := []
    len := 0
    rf := .reset
    csd := .reset 0
    syn := .reset Config.session.params.lfsrSeed
    seq := .reset
    pcm := .empty
    active := .idle
    ret := .notYet
    calls := []
    submitted := [] }

end Sys2Proof.Machine
end

