-- ==== Sys2Proof/Machine/Operands.lean ====
section
/-! DEFINITION. The operand forms: how each command's field becomes the value it writes, and the numbers of registers
and fault codes. -/

namespace Sys2Proof.Machine

/-- The register number `r` (10_state R24). -/
def regNumber : Reg → Nat
  | .tone0 => 0
  | .att0 => 1
  | .tone1 => 2
  | .att1 => 3
  | .tone2 => 4
  | .att2 => 5
  | .nctrl => 6
  | .natt => 7

/-- The tone registers are r in {0, 2, 4} (10_state R25). -/
def isTone : Reg → Bool
  | .tone0 | .tone1 | .tone2 => true
  | .att0 | .att1 | .att2 | .nctrl | .natt => false

/-- `{ RF[r][9:4], n }` (40_register_commands R122). -/
def latchLow (old : BitVec 10) (n : BitVec 4) : BitVec 10 := old.extractLsb' 4 6 ++ n

/-- `{ d, RF[r][3:0] }` (40_register_commands R126). -/
def dataHigh (old : BitVec 10) (d : BitVec 6) : BitVec 10 := d ++ old.extractLsb' 0 4

/-- `n[2:0]` (40_register_commands R124). -/
def nctrlValue (n : BitVec 4) : BitVec 3 := n.extractLsb' 0 3

/-- `f = nnn + 1` (30_encoding R98). -/
def eofFrames (nnn : BitVec 3) : Nat := nnn.toNat + 1

/-- The number of a fault code (60_exceptions R271). -/
def faultNumber : FaultCode → Nat
  | .msBounds => 1
  | .msDanglingRef => 2
  | .msDataNoToneLatch => 3
  | .msNestedRef => 4
  | .msReserved => 5
  | .invalidCall => 6
  | .resUnavailable => 7
  | .invalidParameter => 8

end Sys2Proof.Machine
end

