-- ==== Sys2Proof/Machine/Ops.lean ====
section
/-! DEFINITION. The operations everything else is built of: the sparse arrays behind both address spaces, RF, Fetch,
emitting an event, and raising a fault. -/

namespace Sys2Proof.Machine

/-- The three outcomes with this model's reasons. -/
abbrev Result := Host.Outcome State Fault Refusal

/-- Do the second thing in the state the first one leaves; a stop of the first is the stop of both. -/
def andThen (r : Result) (f : State → Result) : Result :=
  match r with
  | .next s => f s
  | .fault e => .fault e
  | .refused e => .refused e

/-! ### The two address spaces -/

/-- What an unlisted index reads as (DESIGN CHOICE, log 5). -/
def unlistedCell (w : Nat) : BitVec w := 0

/-- The value at an index. -/
def Cells.read {w : Nat} : Cells w → Nat → BitVec w
  | [], _ => unlistedCell w
  | (b, v) :: rest, a => if b = a then v else Cells.read rest a

/-- Put a value at an index; writing what an unlisted index reads as removes the entry. -/
def Cells.write {w : Nat} : Cells w → Nat → BitVec w → Cells w
  | [], a, v => if v = unlistedCell w then [] else [(a, v)]
  | (b, u) :: rest, a, v =>
    if a < b then if v = unlistedCell w then (b, u) :: rest else (a, v) :: (b, u) :: rest
    else if a = b then if v = unlistedCell w then rest else (a, v) :: rest
    else (b, u) :: Cells.write rest a v

/-- The sparse array that holds a list's values from index `at0` on. -/
def Cells.ofList {w : Nat} : Nat → List (BitVec w) → Cells w
  | _, [] => []
  | at0, v :: rest =>
    if v = unlistedCell w then Cells.ofList (at0 + 1) rest else (at0, v) :: Cells.ofList (at0 + 1) rest

/-- Every index of the sparse array is at least `lo`, rising strictly, and no value is the unlisted one. -/
def Cells.wfFrom {w : Nat} : Nat → Cells w → Bool
  | _, [] => true
  | lo, (a, v) :: rest => decide (lo ≤ a) && decide (v ≠ unlistedCell w) && Cells.wfFrom (a + 1) rest

/-- The canonical form of a sparse array. -/
def Cells.wf {w : Nat} (m : Cells w) : Bool := Cells.wfFrom 0 m

/-- The canonical form of the stream space. -/
def Memory.wf (m : Memory) : Bool := Cells.wf m

/-- `MemRead(a, 1)` (20_memory R62). Its callers keep to `a < LEN`. -/
def memRead (m : Memory) (a : Nat) : Byte := Cells.read m a

/-- The stream space that holds the bytes of a buffer from offset 0 (20_memory R60). -/
def Memory.ofBytes (bytes : List Byte) : Memory := Cells.ofList 0 bytes

/-- A buffer of the given samples. -/
def PcmBuffer.ofSamples (samples : List Sample) : PcmBuffer :=
  { slots := samples.length, cells := Cells.ofList 0 samples }

/-! ### RF -/

/-- `RF[r]`, zero-extended to the width of the widest register (00_scope R13). -/
def readReg (rf : RegFile) : Reg → BitVec 10
  | .tone0 => rf.tone0
  | .att0 => rf.att0.setWidth 10
  | .tone1 => rf.tone1
  | .att1 => rf.att1.setWidth 10
  | .tone2 => rf.tone2
  | .att2 => rf.att2.setWidth 10
  | .nctrl => rf.nctrl.setWidth 10
  | .natt => rf.natt.setWidth 10

/-- `RF[r] <- v`, keeping the bits the register has (00_scope R13). -/
def writeReg (rf : RegFile) (v : BitVec 10) : Reg → RegFile
  | .tone0 => { rf with tone0 := v }
  | .att0 => { rf with att0 := v.setWidth 4 }
  | .tone1 => { rf with tone1 := v }
  | .att1 => { rf with att1 := v.setWidth 4 }
  | .tone2 => { rf with tone2 := v }
  | .att2 => { rf with att2 := v.setWidth 4 }
  | .nctrl => { rf with nctrl := v.setWidth 3 }
  | .natt => { rf with natt := v.setWidth 4 }

/-! ### Fetch -/

/-- The region restore at the start of Fetch (42_back_reference R151, R158). -/
def restoreRegion (s : State) : State :=
  if s.csd.rem = 0 ∧ s.csd.resumeValid = true then
    { s with csd := { s.csd with pos := s.csd.resumePos, rem := s.csd.resumeRem, resumeValid := false } }
  else s

/-- `Fetch()` (42_back_reference R151): the next byte in decode order and the state after it, or, where it raises
MS_BOUNDS (R152), the state it leaves, whose `pos` is the offset reported. -/
def fetch (s : State) : Except State (Byte × State) :=
  let s := restoreRegion s
  if s.csd.rem = 0 then .error s
  else if s.len ≤ s.csd.pos then .error s
  else .ok (memRead s.stream s.csd.pos, { s with csd := { s.csd with pos := s.csd.pos + 1, rem := s.csd.rem - 1 } })

/-- `at <- the offset Fetch will read` (41_stream_control R131). -/
def markCommand (s : State) : State :=
  { s with csd := { s.csd with cmdAt := (restoreRegion s).csd.pos } }

/-- Fetch a whole command: its first byte and, for a REF, its two offset bytes, each by a Fetch of its own
(41_stream_control R131, 42_back_reference R154). The error is a Fetch that raised MS_BOUNDS. -/
def fetchCommand (s : State) : Except State (Instr × State) :=
  match fetch (markCommand s) with
  | .error s' => .error s'
  | .ok (b, s1) =>
    if commandLength b = 1 then .ok (decodeCommand b 0 0, s1)
    else
      match fetch s1 with
      | .error s' => .error s'
      | .ok (lo, s2) =>
        match fetch s2 with
        | .error s' => .error s'
        | .ok (hi, s3) => .ok (decodeCommand b lo hi, s3)

/-! ### What a DecodeStep yields -/

/-- `emit E` (00_scope R13). -/
def emit (e : Event) (s : State) : State := { s with csd := { s.csd with yielded := .event e } }

/-- The command yields nothing and decoding continues (41_stream_control R130). -/
def yieldNothing (s : State) : State := { s with csd := { s.csd with yielded := .nothing } }

/-- `raise F(offset, found)` for codes 1 to 5 (60_exceptions R274): CSD's status records the fault and the call returns
it. Nothing else is written: RF, `latched`, FC and both contexts keep their values, and the fetches stay consumed. There
is no return from a fault but Reset (R276). -/
def raiseFault (code : FaultCode) (offset : Nat) (found : Option Byte) (s : State) : State :=
  { s with csd := { s.csd with status := .faulted code offset found, yielded := .fault code offset found } }

end Sys2Proof.Machine
end

