-- ==== Sys2Proof/Machine/Flags.lean ====
section
/-! DEFINITION. The flags of 10_state R35 and what sets them: `latched`, `resume_valid`, `loop_valid`, `status`; and the
frame counter. There are no arithmetic condition codes. -/

namespace Sys2Proof.Machine

/-- `latched <- r` (40_register_commands R121). -/
def setLatched (r : Reg) (s : State) : State := { s with csd := { s.csd with latched := some r } }

/-- REF's entry: save the pair, set `resume_valid`, repoint the pair (42_back_reference R155). -/
def enterRegion (off len : Nat) (s : State) : State :=
  { s with csd := { s.csd with
      resumePos := s.csd.pos, resumeRem := s.csd.rem, resumeValid := true, pos := off, rem := len } }

/-- The first LOOP's snapshot (41_stream_control R135). -/
def captureLoop (s : State) : State :=
  { s with csd := { s.csd with loopPos := s.csd.pos, loopRem := s.csd.rem, loopValid := true } }

/-- END's jump to the loop context: the pair and nothing else (41_stream_control R133). -/
def jumpLoop (s : State) : State := { s with csd := { s.csd with pos := s.csd.loopPos, rem := s.csd.loopRem } }

/-- `status <- Ended` (41_stream_control R132). -/
def setEnded (s : State) : State := { s with csd := { s.csd with status := .ended } }

/-- `FC <- (FC + f) mod 2^FCW` (41_stream_control R138). -/
def advanceFrames (f : Nat) (s : State) : State :=
  { s with csd := { s.csd with fc := (s.csd.fc + f) % 2 ^ s.params.fcw } }

end Sys2Proof.Machine
end

