-- ==== Sys2Proof/Machine/Register.lean ====
section
/-! DEFINITION. The register commands LATCH and DATA (40_register_commands). -/

namespace Sys2Proof.Machine

/-- Write RF[r] and report the register's whole new content (40_register_commands R120). -/
def writeAndReport (r : Reg) (v : BitVec 10) (s : State) : State :=
  let rf := writeReg s.rf v r
  emit (.registerWrite r (readReg rf r)) { s with rf := rf }

/-- LATCH to a tone register (R121, R122). -/
def latchTone (r : Reg) (n : BitVec 4) (s : State) : State :=
  writeAndReport r (latchLow (readReg s.rf r) n) (setLatched r s)

/-- LATCH to an attenuation register (R121, R123). -/
def latchAtt (r : Reg) (n : BitVec 4) (s : State) : State :=
  writeAndReport r (n.setWidth 10) (setLatched r s)

/-- `if CFG.LFSR_RESET_ON_NCTRL then lfsr <- CFG.LFSR_SEED` (R124). -/
def reseedOnNctrl (s : State) : State :=
  { s with syn := { s.syn with lfsr := if s.params.lfsrResetOnNctrl then s.params.lfsrSeed else s.syn.lfsr } }

/-- LATCH TONE0, n (R122). -/
def execLatchTone0 (n : BitVec 4) (s : State) : Result := .next (latchTone .tone0 n s)

/-- LATCH ATT0, n (R123). -/
def execLatchAtt0 (n : BitVec 4) (s : State) : Result := .next (latchAtt .att0 n s)

/-- LATCH TONE1, n (R122). -/
def execLatchTone1 (n : BitVec 4) (s : State) : Result := .next (latchTone .tone1 n s)

/-- LATCH ATT1, n (R123). -/
def execLatchAtt1 (n : BitVec 4) (s : State) : Result := .next (latchAtt .att1 n s)

/-- LATCH TONE2, n (R122). -/
def execLatchTone2 (n : BitVec 4) (s : State) : Result := .next (latchTone .tone2 n s)

/-- LATCH ATT2, n (R123). -/
def execLatchAtt2 (n : BitVec 4) (s : State) : Result := .next (latchAtt .att2 n s)

/-- LATCH NCTRL, n (R121, R124): the register takes n[2:0]. -/
def execLatchNctrl (n : BitVec 4) (s : State) : Result :=
  .next (writeAndReport .nctrl ((nctrlValue n).setWidth 10) (reseedOnNctrl (setLatched .nctrl s)))

/-- LATCH NATT, n (R123). -/
def execLatchNatt (n : BitVec 4) (s : State) : Result := .next (latchAtt .natt n s)

/-- DATA to the latched tone register (R126). -/
def writeLatchedHigh (r : Reg) (d : BitVec 6) (s : State) : State :=
  writeAndReport r (dataHigh (readReg s.rf r) d) s

/-- DATA with no tone register latched (R127). -/
def raiseNoToneLatch (d : BitVec 6) (s : State) : State :=
  raiseFault .msDataNoToneLatch s.csd.cmdAt (some (dataByte d)) s

/-- DATA d (R126, R127, R128): the test is on `latched` alone. -/
def execData (d : BitVec 6) (s : State) : Result :=
  match s.csd.latched with
  | some r => .next (if isTone r then writeLatchedHigh r d s else raiseNoToneLatch d s)
  | none => .next (raiseNoToneLatch d s)

end Sys2Proof.Machine
end

