-- ==== Sys2Proof/Machine/Control.lean ====
section
/-! DEFINITION. The one-byte commands that steer the stream: END, LOOP, RSVD, EOF (41_stream_control). -/

namespace Sys2Proof.Machine

/-- END (R132, R133). -/
def execEnd (s : State) : Result :=
  if s.csd.loopValid then .next (yieldNothing (jumpLoop s))
  else .next (emit .endOfStream (setEnded s))

/-- LOOP (R135, R136): only the first one in a session writes the loop context. -/
def execLoop (s : State) : Result :=
  .next (emit .loopStart (if s.csd.loopValid then s else captureLoop s))

/-- RSVD k (R137): the fault MS_RESERVED. -/
def execRsvd (k : BitVec 3) (s : State) : Result :=
  .next (raiseFault .msReserved s.csd.cmdAt (some (rsvdByte k)) s)

/-- EOF f with f = nnn + 1 (R138). -/
def execEof (nnn : BitVec 3) (s : State) : Result :=
  .next (emit (.endOfFrame (eofFrames nnn)) (advanceFrames (eofFrames nnn) s))

end Sys2Proof.Machine
end

