-- ==== Sys2Proof/Machine/Reference.lean ====
section
/-! DEFINITION. The back-reference REF after its operand fetch (42_back_reference R155 to R157). -/

namespace Sys2Proof.Machine

/-- REF len, off: dangling is tested before nested (60_exceptions R278), then the region is entered. -/
def execRef (len : BitVec 6) (off : BitVec 16) (s : State) : Result :=
  if s.len ≤ off.toNat then .next (raiseFault .msDanglingRef s.csd.cmdAt (some (refByte len)) s)
  else if s.csd.resumeValid then .next (raiseFault .msNestedRef s.csd.cmdAt (some (refByte len)) s)
  else .next (yieldNothing (enterRegion off.toNat len.toNat s))

end Sys2Proof.Machine
end

