-- ==== Sys2Proof/Machine/Dispatch.lean ====
section
/-! DEFINITION. exec: one arm per command, each one call of its meaning. -/

namespace Sys2Proof.Machine

/-- The meaning of a command whose bytes have been fetched (41_stream_control R131). -/
def exec (i : Instr) (s : State) : Host.Outcome State Fault Refusal :=
  match i with
  | .latchTone0 n => Sys2Proof.Machine.execLatchTone0 n s
  | .latchAtt0 n => Sys2Proof.Machine.execLatchAtt0 n s
  | .latchTone1 n => Sys2Proof.Machine.execLatchTone1 n s
  | .latchAtt1 n => Sys2Proof.Machine.execLatchAtt1 n s
  | .latchTone2 n => Sys2Proof.Machine.execLatchTone2 n s
  | .latchAtt2 n => Sys2Proof.Machine.execLatchAtt2 n s
  | .latchNctrl n => Sys2Proof.Machine.execLatchNctrl n s
  | .latchNatt n => Sys2Proof.Machine.execLatchNatt n s
  | .data d => Sys2Proof.Machine.execData d s
  | .endStream => Sys2Proof.Machine.execEnd s
  | .loop => Sys2Proof.Machine.execLoop s
  | .rsvd k => Sys2Proof.Machine.execRsvd k s
  | .ref len off => Sys2Proof.Machine.execRef len off s
  | .eof nnn => Sys2Proof.Machine.execEof nnn s

end Sys2Proof.Machine
end

