-- ==== Sys2Proof/Machine/Synthesizer.lean ====
section
/-! DEFINITION. SYN (43_synthesis): the clock conversion, the tone and noise channels, the mix, PcmAdd (20_memory R70),
RenderTick and Render. -/

namespace Sys2Proof.Machine

/-! ### Clock conversion -/

/-- The cycles of a tick and the accumulator after it (R176). -/
def clockStep (p : Params) (acc : Nat) : Nat × Nat :=
  let acc := acc + p.clk / 16
  let cycles := acc / p.rate
  (cycles, acc - cycles * p.rate)

/-! ### Tone channels -/

/-- The other polarity. -/
def flipPolarity : Polarity → Polarity
  | .plus => .minus
  | .minus => .plus

/-- +1 or -1 (10_state R39). -/
def polaritySign : Polarity → Int
  | .plus => 1
  | .minus => -1

/-- `while cnt <= 0 do pol <- -pol; cnt <- cnt + P` (R182), for at most `fuel` passes. -/
def toneReload (period : Nat) : Nat → Int → Polarity → Int × Polarity
  | 0, cnt, pol => (cnt, pol)
  | fuel + 1, cnt, pol =>
    if cnt ≤ 0 then toneReload period fuel (cnt + period) (flipPolarity pol) else (cnt, pol)

/-- Passes enough for a reload loop that adds at least 1 each time. -/
def reloadFuel (cnt : Int) : Nat := (-cnt).toNat + 1

/-- One tone channel for one tick (R181, R182). -/
def toneStep (period cycles : Nat) (cnt : Int) (pol : Polarity) : Int × Polarity :=
  if period ≤ 1 then (cnt, .plus)
  else toneReload period (reloadFuel (cnt - cycles)) (cnt - cycles) pol

/-! ### Noise channel -/

/-- `parity(v)`: the population count modulo 2 (00_scope R12). -/
def parity (v : BitVec 16) : Bool := decide (((List.range 16).filter v.getLsbD).length % 2 = 1)

/-- `ShiftLfsr()` (R187): white when NCTRL[2] = 1. -/
def shiftLfsr (tapMask : BitVec 16) (white : Bool) (lfsr : BitVec 16) : BitVec 16 :=
  BitVec.ofBool (if white then parity (lfsr &&& tapMask) else lfsr.getLsbD 0) ++ lfsr.extractLsb' 1 15

/-- The noise period PN (R185). -/
def noisePeriod (p : Params) (rf : RegFile) : Nat :=
  match (rf.nctrl.extractLsb' 0 2).toNat with
  | 0 => p.noiseDiv[0]
  | 1 => p.noiseDiv[1]
  | 2 => p.noiseDiv[2]
  | _ => rf.tone2.toNat

/-- NCTRL[2] (R187). -/
def noiseWhite (rf : RegFile) : Bool := rf.nctrl.getLsbD 2

/-- `while cnt[3] <= 0 do ShiftLfsr(); cnt[3] <- cnt[3] + PN` (R186), for at most `fuel` passes. -/
def noiseReload (tapMask : BitVec 16) (white : Bool) (period : Nat) : Nat → Int → BitVec 16 → Int × BitVec 16
  | 0, cnt, lfsr => (cnt, lfsr)
  | fuel + 1, cnt, lfsr =>
    if cnt ≤ 0 then noiseReload tapMask white period fuel (cnt + period) (shiftLfsr tapMask white lfsr)
    else (cnt, lfsr)

/-- The noise channel for one tick (R186): held when the period is 0. -/
def noiseStep (tapMask : BitVec 16) (white : Bool) (period cycles : Nat) (cnt : Int) (lfsr : BitVec 16) :
    Int × BitVec 16 :=
  if period = 0 then (cnt, lfsr)
  else noiseReload tapMask white period (reloadFuel (cnt - cycles)) (cnt - cycles) lfsr

/-- SYN after a tick's clock conversion, tone channels and noise channel (R172). -/
def synTick (p : Params) (rf : RegFile) (syn : Synth) : Synth :=
  let clock := clockStep p syn.acc
  let ch0 := toneStep rf.tone0.toNat clock.1 syn.cnt0 syn.pol0
  let ch1 := toneStep rf.tone1.toNat clock.1 syn.cnt1 syn.pol1
  let ch2 := toneStep rf.tone2.toNat clock.1 syn.cnt2 syn.pol2
  let noise := noiseStep p.tapMask (noiseWhite rf) (noisePeriod p rf) clock.1 syn.cnt3 syn.lfsr
  { cnt0 := ch0.1, cnt1 := ch1.1, cnt2 := ch2.1, cnt3 := noise.1, pol0 := ch0.2, pol1 := ch1.2, pol2 := ch2.2,
    lfsr := noise.2, acc := clock.2 }

/-! ### Mixing -/

/-- `a tdiv b`: division truncating toward zero (00_scope R12). -/
def tdiv (a : Int) (b : Nat) : Int := a.sign * ((a.natAbs / b : Nat) : Int)

/-- The amplitude of an attenuation, `VOL[a]` (R190). -/
def amplitude (p : Params) (att : BitVec 4) : Int := ((p.vol[att.toNat]'att.isLt : Nat) : Int)

/-- `nz` (R188): +1 when lfsr[0] = 1. -/
def noiseSign (lfsr : BitVec 16) : Int := if lfsr.getLsbD 0 then 1 else -1

/-- The samples s[0], s[1], s[2], s[3] (R191). -/
def channelSamples (p : Params) (rf : RegFile) (syn : Synth) : Vector Int 4 :=
  #v[polaritySign syn.pol0 * amplitude p rf.att0, polaritySign syn.pol1 * amplitude p rf.att1,
    polaritySign syn.pol2 * amplitude p rf.att2, noiseSign syn.lfsr * amplitude p rf.natt]

/-- The mono mix `m` (R192). -/
def monoMix (s : Vector Int 4) : Int := s[0] + s[1] + s[2] + s[3]

/-- The sum of the channels weighted for one side (R193). -/
def panMix (pan : Vector Nat 4) (s : Vector Int 4) : Int :=
  s[0] * (pan[0] : Int) + s[1] * (pan[1] : Int) + s[2] * (pan[2] : Int) + s[3] * (pan[3] : Int)

/-- The value a mono tick adds to its slot (R192, R196). -/
def monoSample (p : Params) (rf : RegFile) (syn : Synth) : Int := tdiv (monoMix (channelSamples p rf syn)) p.outDiv

/-- The value a stereo tick adds to the left slot (R193, R196). -/
def leftSample (p : Params) (rf : RegFile) (syn : Synth) : Int :=
  tdiv (panMix p.panL (channelSamples p rf syn)) (p.panDen * p.outDiv)

/-- The value a stereo tick adds to the right slot (R193, R196). -/
def rightSample (p : Params) (rf : RegFile) (syn : Synth) : Int :=
  tdiv (panMix p.panR (channelSamples p rf syn)) (p.panDen * p.outDiv)

/-! ### The PCM space -/

/-- The signed sample in a slot (20_memory R69). -/
def readSlot (b : PcmBuffer) (i : Nat) : Int := (Cells.read b.cells i).toInt

/-- `PcmAdd(i, v)` (20_memory R70): the sum when it fits 16 bits, a refusal when it does not. A slot the buffer does not
have is refused too (R69, log 12): SYN raises no fault (60_exceptions R273). -/
def pcmAdd (i : Nat) (v : Int) (s : State) : Result :=
  if i < s.pcm.slots then
    if -32768 ≤ readSlot s.pcm i + v ∧ readSlot s.pcm i + v ≤ 32767 then
      .next { s with pcm :=
        { s.pcm with cells := Cells.write s.pcm.cells i (BitVec.ofInt 16 (readSlot s.pcm i + v)) } }
    else .refused .pcmOverflow
  else .refused .pcmSlotMissing

/-- `RenderTick(k)` (R172): one output sample period, accumulated into frame `k`. -/
def renderTick (k : Nat) (s : State) : Result :=
  let s := { s with syn := synTick s.params s.rf s.syn }
  if s.params.stereo then
    andThen (pcmAdd (2 * k) (leftSample s.params s.rf s.syn) s)
      (pcmAdd (2 * k + 1) (rightSample s.params s.rf s.syn))
  else pcmAdd k (monoSample s.params s.rf s.syn) s

/-- `Render(n, dst)` (R170). -/
def render : Nat → Nat → State → Result
  | 0, _, s => .next s
  | n + 1, dst, s => andThen (renderTick dst s) (render n (dst + 1))

end Sys2Proof.Machine
end

