-- ==== Sys2Proof/Machine/Playback.lean ====
section
/-! DEFINITION. SEQ (44_sequencer): Start, Tick in its five states, Cancel, the sink's three operations, and what a Tick
in CommandProcessing does with the events CSD returns. -/

namespace Sys2Proof.Machine

/-- The host operation in progress ends and returns `r`. -/
def finish (r : Return) (s : State) : State := { s with active := .idle, ret := r }

/-- `Sink.submit(buffer)` (R222): the current buffer goes to the sink and is no longer addressable (20_memory R72). -/
def submitBuffer (s : State) : State := { s with submitted := s.submitted ++ [s.pcm], pcm := .empty }

/-- `have_buf <- 0; cursor <- 0; budget <- 0`, with a held buffer dropped, not submitted (R217 to R219). -/
def dropBuffer (s : State) : State :=
  { s with seq := { s.seq with haveBuf := false, cursor := 0, budget := 0 }
           pcm := if s.seq.haveBuf then .empty else s.pcm }

/-- SEQ goes to Idle with a terminal status, holding no buffer (R217, R218, R219). -/
def stopPlayback (t : Terminal) (s : State) : State :=
  let s := dropBuffer s
  { s with seq := { s.seq with term := t, mode := .idle } }

/-- `SPF = RATE div FRAME_HZ` (R214). -/
def samplesPerFrame (p : Params) : Nat := p.rate / p.frameHz

/-- The slots of a sink buffer: BLOCK frames of one slot in mono, of two in stereo (20_memory R69). -/
def blockSlots (p : Params) : Nat := if p.stereo then 2 * p.block else p.block

/-- `Start()` (R211): nothing but from Idle. -/
def startPlayback (s : State) : State :=
  if s.seq.mode = .idle then { s with seq := { s.seq with term := .none, mode := .commandProcessing } } else s

/-- `busy` (10_state R45). -/
def busy (s : State) : Bool := decide (s.seq.mode ≠ .idle)

/-- The frames a Tick in Waiting renders: `min(space, budget)` (R215). -/
def waitingFrames (s : State) : Nat :=
  min (if s.seq.haveBuf then s.params.block - s.seq.cursor else 0) s.seq.budget

/-- What a Tick in Waiting does after its Render of `n` frames (R215). -/
def afterWaitingRender (n : Nat) (s : State) : State :=
  let s := { s with seq := { s.seq with cursor := s.seq.cursor + n, budget := s.seq.budget - n } }
  if s.seq.budget = 0 then { s with seq := { s.seq with mode := .commandProcessing } }
  else
    let s := if s.seq.haveBuf then submitBuffer s else s
    { s with seq := { s.seq with haveBuf := false, mode := .bufferWaiting } }

/-- A Tick in Waiting (R215). -/
def tickWaiting (s : State) : Result :=
  andThen (render (waitingFrames s) s.seq.cursor s) fun t => .next (finish .done (afterWaitingRender (waitingFrames s) t))

/-- A Tick in BufferWaiting (R216): a granted buffer is zero-filled. DESIGN CHOICE (log 24): a buffer the caller had lent
is replaced for good. -/
def tickBufferWaiting (granted : Bool) (s : State) : State :=
  if granted then
    { s with seq := { s.seq with haveBuf := true, cursor := 0, mode := .waiting }
             pcm := { slots := blockSlots s.params, cells := [] } }
  else s

/-- A Tick in Ending (R217). -/
def tickEnding (allIdle : Bool) (s : State) : State := if allIdle then stopPlayback .completed s else s

/-- A Tick in CommandProcessing begins (R213): it calls NextEvent, which out of Running is INVALID_CALL
(41_stream_control R140) and stops playback (R219); in Running its DecodeSteps follow, one a step. -/
def tickCommandProcessing (s : State) : State :=
  if s.csd.status = .running then { s with active := .tick }
  else finish .done (stopPlayback (.failed .invalidCall) s)

/-- `Tick()` (R212), with the sink's answers. -/
def tick (granted allIdle : Bool) (s : State) : Result :=
  match s.seq.mode with
  | .idle => .next (finish .done s)
  | .commandProcessing => .next (tickCommandProcessing s)
  | .waiting => tickWaiting s
  | .bufferWaiting => .next (finish .done (tickBufferWaiting granted s))
  | .ending => .next (finish .done (tickEnding allIdle s))

/-- `Cancel()` (R218). -/
def cancelPlayback (s : State) : State := if s.seq.mode = .idle then s else stopPlayback .cancelled s

/-- What CommandProcessing does with an event (R213). RegisterWrite and LoopStart let it pull the next one. -/
def sequenceEvent (e : Event) (s : State) : State :=
  match e with
  | .registerWrite _ _ => s
  | .loopStart => s
  | .endOfFrame f =>
    finish .done { s with seq := { s.seq with budget := f * samplesPerFrame s.params, mode := .waiting } }
  | .endOfStream =>
    let s := if s.seq.haveBuf ∧ 0 < s.seq.cursor then submitBuffer s else s
    finish .done { s with seq := { s.seq with mode := .ending } }

/-- A DecodeStep's yield goes to the operation in progress: NextEvent returns an event or a fault and goes on at nothing
(41_stream_control R130, 60_exceptions R274); a Tick in CommandProcessing acts on it (R213, R219). -/
def deliver (s : State) : State :=
  match s.active, s.csd.yielded with
  | .idle, _ => s
  | _, .nothing => s
  | .nextEvent, .event e => finish (.event e) s
  | .nextEvent, .fault code offset found => finish (.malformed code offset found) s
  | .tick, .event e => sequenceEvent e s
  | .tick, .fault code _ _ => finish .done (stopPlayback (.failed code) s)

end Sys2Proof.Machine
end

