-- ==== Sys2Proof/Machine/HostCalls.lean ====
section
/-! DEFINITION. The host operations (30_encoding R110) and the acts of the surroundings. -/

namespace Sys2Proof.Machine

/-- The core after Reset took a legal CFG (70_reset_and_hazards R310, 10_state R48): CFG, RF, CSD, SYN and SEQ as the
table says, no buffer held. The host's calls and the buffers the sink already has are not the core's (log 14). -/
def resetCore (p : Params) (bytes : List Byte) (s : State) : State :=
  { s with
    params := p
    stream := Memory.ofBytes bytes
    len := bytes.length
    rf := .reset
    csd := .reset bytes.length
    syn := .reset p.lfsrSeed
    seq := .reset
    pcm := .empty }

/-- `Reset(CFG)` (70_reset_and_hazards R310): an illegal CFG is INVALID_PARAMETER and changes no state. -/
def resetCall (p : Params) (bytes : List Byte) (s : State) : State :=
  if p.legal bytes.length then finish .done (resetCore p bytes s)
  else finish (.invalidParameter (p.violations bytes.length)) s

/-- `NextEvent()` begins (41_stream_control R130, R140): out of Running it is INVALID_CALL and changes no state. -/
def nextEventCall (s : State) : State :=
  if s.csd.status = .running then { s with active := .nextEvent } else finish .invalidCall s

/-- `Render(n, dst)` into the current buffer (43_synthesis R170, 20_memory R72). -/
def renderCall (n dst : Nat) (s : State) : Result := andThen (render n dst s) fun t => .next (finish .done t)

/-- The caller lends a buffer (log 13). -/
def lendCall (samples : List Sample) (s : State) : Result :=
  if s.seq.haveBuf then .refused .lendWhileHeld
  else .next (finish .done { s with pcm := PcmBuffer.ofSamples samples })

/-- One host call. -/
def hostCall (c : HostCall) (s : State) : Result :=
  match c with
  | .reset p bytes => .next (resetCall p bytes s)
  | .nextEvent => .next (nextEventCall s)
  | .render n dst => renderCall n dst s
  | .start => .next (finish .done (startPlayback s))
  | .tick granted allIdle => tick granted allIdle s
  | .cancel => .next (finish .done (cancelPlayback s))
  | .lend samples => lendCall samples s
  | .sinkUnavailable => .next (finish .resUnavailable (stopPlayback (.failed .resUnavailable) s))

end Sys2Proof.Machine
end

