-- ==== Sys2Proof/Machine/DecodeStep.lean ====
section
/-! DEFINITION. DecodeStep, the atomic step of CSD (41_stream_control R131), with its yield delivered to the operation in
progress. -/

namespace Sys2Proof.Machine

/-- `DecodeStep()`: fetch a command and run it; a Fetch that fails raises MS_BOUNDS at the offset it would have read
(42_back_reference R152). -/
def decodeStep (s : State) : Result :=
  match fetchCommand s with
  | .error t => .next (deliver (raiseFault .msBounds t.csd.pos none t))
  | .ok (i, t) => andThen (exec i t) fun u => .next (deliver u)

/-- Put the bytes of a table word where the next Fetch reads: at `pos`, with the region and the buffer long enough for
three bytes, and NextEvent in progress on a decoder that runs (log 4). -/
def placeCommand (nbits w : Nat) (s : State) : State :=
  let write (m : Memory) (k : Nat) (b : Byte) : Memory := Cells.write m (s.csd.pos + k) b
  { s with
    stream := write (write (write s.stream 0 ((tableBytes nbits w).getD 0 0)) 1 ((tableBytes nbits w).getD 1 0)) 2
      ((tableBytes nbits w).getD 2 0)
    len := max s.len (s.csd.pos + 3)
    csd := { s.csd with rem := max s.csd.rem 3, status := .running }
    active := .nextEvent }

end Sys2Proof.Machine
end

