-- ==== Sys2Proof/Machine/Step.lean ====
section
/-! DEFINITION. One step of the machine: a DecodeStep of the operation in progress, else the host's next call, else
nothing (10_state R20). -/

namespace Sys2Proof.Machine

/-- One step. With no operation in progress and no call waiting the state does not change (10_state R20). -/
def step (s : State) : Host.Outcome State Fault Refusal :=
  match s.active with
  | .idle =>
    match s.calls with
    | [] => .next s
    | c :: rest => hostCall c { s with calls := rest }
  | .nextEvent => decodeStep s
  | .tick => decodeStep s

/-- `s` with a table word's command stored where the next step fetches it. -/
def State.withFetchWord (s : State) (nbits w : Nat) : State := placeCommand nbits w s

end Sys2Proof.Machine
end

