-- ==== Sys2Proof/Safety.lean ====
section
/-! DEFINITION. What claims speak of: CSD run by itself, the well-formed stream (45_compressor_contract R256), the
producer's contract (R249 to R253), and the invariants of the machine. -/

namespace Sys2Proof.Safety

open Sys2Proof.Machine

/-! ### CSD run by itself -/

/-- One DecodeStep of CSD in Running, its yield left in `csd.yielded`; out of Running nothing happens. It is `step`'s
DecodeStep with no host operation waiting for the yield. -/
def csdStep (s : State) : State :=
  if s.csd.status = .running then
    match decodeStep { s with active := .idle } with
    | .next t => t
    | .fault _ => s
    | .refused _ => s
  else s

/-- `k` DecodeSteps of CSD. -/
def csdRun : Nat → State → State
  | 0, s => s
  | k + 1, s => csdRun k (csdStep s)

/-- The state after Reset(CFG) with a buffer of bytes (70_reset_and_hazards R310). -/
def sessionStart (p : Params) (bytes : List Byte) : State := resetCore p bytes State.reset

/-- The command the next DecodeStep runs, with the state after its fetches: none when CSD is not Running or a fetch
fails. -/
def decoded (s : State) : Option (Instr × State) :=
  if s.csd.status = .running then
    match fetchCommand s with
    | .ok r => some r
    | .error _ => none
  else none

/-- The event a DecodeStep yielded, as a list of at most one. -/
def yieldedEvents : Yield → List Event
  | .event e => [e]
  | .nothing => []
  | .fault _ _ _ => []

/-- The events of the first `k` DecodeSteps. -/
def eventLog : Nat → State → List Event
  | 0, _ => []
  | k + 1, s =>
    if s.csd.status = .running then yieldedEvents (csdStep s).csd.yielded ++ eventLog k (csdStep s) else []

/-- The cycles of the first `n` ticks in all, and the accumulator after them, from `acc = 0` (43_synthesis R176). -/
def clockRun (p : Params) : Nat → Nat × Nat
  | 0 => (0, 0)
  | n + 1 =>
    let before := clockRun p n
    let tick := clockStep p before.2
    (before.1 + tick.1, tick.2)

/-! ### The well-formed stream -/

/-- A fault was raised. -/
def isFaulted : Status → Bool
  | .faulted _ _ _ => true
  | .running => false
  | .ended => false

/-- The command is a LATCH to a tone register. -/
def isToneLatch : Instr → Bool
  | .latchTone0 _ | .latchTone1 _ | .latchTone2 _ => true
  | _ => false

/-- The command is a LATCH. -/
def isLatch : Instr → Bool
  | .latchTone0 _ | .latchAtt0 _ | .latchTone1 _ | .latchAtt1 _ | .latchTone2 _ | .latchAtt2 _ => true
  | .latchNctrl _ | .latchNatt _ => true
  | .data _ | .endStream | .loop | .rsvd _ | .ref _ _ | .eof _ => false

/-- The command is a DATA. -/
def isData : Instr → Bool
  | .data _ => true
  | _ => false

/-- The byte would be a REF, an END or a LOOP in command position (30_encoding R91). -/
def steersStream (b : Byte) : Bool :=
  decide (b.toNat = 0 ∨ b.toNat = 1 ∨ (0x08 ≤ b.toNat ∧ b.toNat ≤ 0x37))

/-- The last command before DecodeStep `k` in decode order. REFs are passed over: they separate commands in stream order
only (70_reset_and_hazards R321). -/
def previousCommand (s : State) : Nat → Option Instr
  | 0 => none
  | k + 1 =>
    match decoded (csdRun k s) with
    | some (.ref _ _, _) => previousCommand s k
    | some (i, _) => some i
    | none => previousCommand s k

/-- W1: decoding from Reset never raises a fault. -/
def W1 (s : State) : Prop := ∀ k, isFaulted (csdRun k s).csd.status = false

/-- W2: the last byte of the buffer is an END in command position at top level, and no other END is decoded. -/
def W2 (s : State) : Prop :=
  (∃ k t, decoded (csdRun k s) = some (.endStream, t)) ∧
    ∀ k t, decoded (csdRun k s) = some (.endStream, t) → t.csd.cmdAt + 1 = s.len ∧ t.csd.resumeValid = false

/-- W3: at most one LOOP is decoded. -/
def W3 (s : State) : Prop :=
  ∀ j k t u, decoded (csdRun j s) = some (.loop, t) → decoded (csdRun k s) = some (.loop, u) → j = k

/-- W4: every DATA is decoded immediately after a LATCH to a tone register. -/
def W4 (s : State) : Prop :=
  ∀ k d t, decoded (csdRun k s) = some (.data d, t) → ∃ i, previousCommand s k = some i ∧ isToneLatch i = true

/-- W5: no RSVD is decoded. -/
def W5 (s : State) : Prop := ∀ k c t, decoded (csdRun k s) ≠ some (.rsvd c, t)

/-- W6: every REF is decoded at top level (its first byte is: a region's end may cut it, 42_back_reference R164), its region
lies inside the buffer, begins before the REF, and holds no REF, END or LOOP in command position. With one-byte commands
only, it ends on a command boundary. -/
def W6 (s : State) : Prop :=
  ∀ k len off t, decoded (csdRun k s) = some (.ref len off, t) →
    (restoreRegion (csdRun k s)).csd.resumeValid = false ∧ off.toNat + len.toNat ≤ s.len ∧ off.toNat < t.csd.cmdAt ∧
      ∀ j, j < len.toNat → steersStream (memRead s.stream (off.toNat + j)) = false

/-- W7: if a LOOP is decoded, an EOF is decoded between it and every END after it. -/
def W7 (s : State) : Prop :=
  ∀ j k t u, j < k → decoded (csdRun j s) = some (.loop, t) → decoded (csdRun k s) = some (.endStream, u) →
    ∃ m n v, j < m ∧ m < k ∧ decoded (csdRun m s) = some (.eof n, v)

/-- The well-formed stream (45_compressor_contract R256). -/
def WellFormedStream (p : Params) (bytes : List Byte) : Prop :=
  let s := sessionStart p bytes
  W1 s ∧ W2 s ∧ W3 s ∧ W4 s ∧ W5 s ∧ W6 s ∧ W7 s

/-! ### The producer's contract -/

/-- The command positions of a stored stream: each offset at which the linear scan finds a first byte, with the bytes from
there on (30_encoding R102, log 25). The stream begins at offset `at0`, and its first `skip` bytes are the rest of a
command. -/
def commandStarts : Nat → Nat → List Byte → List (Nat × List Byte)
  | _, _, [] => []
  | at0, 0, b :: rest => (at0, b :: rest) :: commandStarts (at0 + 1) (commandLength b - 1) rest
  | at0, skip + 1, _ :: rest => commandStarts (at0 + 1) skip rest

/-- No REF byte in command position, be it the first byte of a whole REF or of one the stream's end cuts (30_encoding
R103). -/
def Uncompressed (bytes : List Byte) : Prop := ∀ e ∈ commandStarts 0 0 bytes, commandLength (e.2.headD 0) = 1

/-- Each of the two buffers gives every event the other gives, in the same order. -/
def SameEvents (p : Params) (a b : List Byte) : Prop :=
  (∀ k, ∃ m, eventLog k (sessionStart p a) <+: eventLog m (sessionStart p b)) ∧
    ∀ k, ∃ m, eventLog k (sessionStart p b) <+: eventLog m (sessionStart p a)

/-- Round trip (45_compressor_contract R249), the one guarantee that asks for a stream the decoder accepts. -/
def RoundTrips (p : Params) (compress : List Byte → List Byte) : Prop :=
  ∀ bytes, Uncompressed bytes → W1 (sessionStart p bytes) → SameEvents p bytes (compress bytes)

/-- Non-expansion, for every stream (R250). -/
def NeverExpands (compress : List Byte → List Byte) : Prop := ∀ bytes, (compress bytes).length ≤ bytes.length

/-- What every REF in command position of an output keeps, whether or not the decoder comes to it: it is whole (R244), it is
causal (R251), its region holds no REF in command position (R252), and its length and offset keep their bounds, the
region ending at or before the REF (R253). -/
def EmitsOnlyPlainReferences (compress : List Byte → List Byte) : Prop :=
  ∀ bytes, Uncompressed bytes → ∀ e ∈ commandStarts 0 0 (compress bytes), commandLength (e.2.headD 0) ≠ 1 →
    ∃ len off rest, decode e.2 = .ok (.ref len off, rest) ∧ off.toNat < e.1 ∧
      Uncompressed (((compress bytes).drop off.toNat).take len.toNat) ∧
      4 ≤ len.toNat ∧ len.toNat ≤ 51 ∧ off.toNat + len.toNat ≤ e.1

/-- What a conforming compressor guarantees (45_compressor_contract R249 to R253). -/
def ProducerContract (p : Params) (compress : List Byte → List Byte) : Prop :=
  RoundTrips p compress ∧ NeverExpands compress ∧ EmitsOnlyPlainReferences compress

/-! ### Invariants of the machine -/

/-- The call waiting is a Reset with a legal CFG: the only host operation that starts a session. -/
def IsLegalReset (s : State) : Prop :=
  s.active = .idle ∧ ∃ p bytes rest, s.calls = .reset p bytes :: rest ∧ p.legal bytes.length = true

/-- Both address spaces, and every submitted buffer, are in canonical form. -/
def MemoryCanonical (s : State) : Prop :=
  Memory.wf s.stream = true ∧ Cells.wf s.pcm.cells = true ∧ ∀ b ∈ s.submitted, Cells.wf b.cells = true

/-- The session's configuration is legal (00_scope R10). -/
def ConfigLegal (s : State) : Prop := s.params.legal s.len = true

/-- The position pair keeps its bounds (10_state R28), and so does a saved pair while it is held: while its valid bit is 0
it has no value (R30, R31). -/
def PositionsBounded (s : State) : Prop :=
  ConfigLegal s ∧ s.csd.pos ≤ s.len ∧ s.csd.rem ≤ s.params.lenMax ∧
    (s.csd.resumeValid = true → s.csd.resumePos ≤ s.len ∧ s.csd.resumeRem ≤ s.params.lenMax) ∧
    (s.csd.loopValid = true → s.csd.loopPos ≤ s.len ∧ s.csd.loopRem ≤ s.params.lenMax)

/-- The accumulator stays below the sample rate (10_state R40), the frame counter within its width (R33) and the cursor
within the buffer (R42). -/
def CountersBounded (s : State) : Prop :=
  ConfigLegal s ∧ s.syn.acc < s.params.rate ∧ s.csd.fc < 2 ^ s.params.fcw ∧ s.seq.cursor ≤ s.params.block

/-- A host operation is in progress only while CSD is Running. -/
def ActiveOnlyWhenRunning (s : State) : Prop := s.active ≠ .idle → s.csd.status = .running

/-- The top-level pair, and the loop context once captured, end at the end of the buffer (10_state R36). -/
def TopRegionEndsAtLen (s : State) : Prop :=
  (if s.csd.resumeValid then s.csd.resumePos + s.csd.resumeRem else s.csd.pos + s.csd.rem) = s.len ∧
    (s.csd.loopValid = true → s.csd.loopPos + s.csd.loopRem = s.len)

end Sys2Proof.Safety
end

