-- ==== Sys2Proof/Certificates/Slice0/Obligations.lean ====
section
/-! DEFINITION. The statements for the provers. Each docstring names the rule of spec/ it formalises; OBLIGATIONS.json
lists them. The fields `cmdAt`, `yielded`, `active`, `ret`, `calls` and `submitted` are the model's own way to hold what
the spec says of a call (log 1, 7 and 9); `.done` is its result of an operation that has none (log 15). -/

open Sys2Proof Sys2Proof.Machine Sys2Proof.Safety

/-! ### Encoding -/

/-- Every well-formed command decodes from its encoding, whatever follows it (30_encoding R91, R104). -/
def Obligations.DecodeOfEncodeIsTheCommand : Prop :=
  ∀ (i : Instr) (rest : List Byte), i.wellFormed = true → decode (encode i ++ rest) = .ok (i, rest)

/-- Whatever decodes is well-formed and encodes back to the bytes read: no bit is lost (30_encoding R91, R92). -/
def Obligations.DecodedBytesEncodeBack : Prop :=
  ∀ (bytes : List Byte) (i : Instr) (rest : List Byte), decode bytes = .ok (i, rest) →
    i.wellFormed = true ∧ encode i ++ rest = bytes

/-- R102: three bytes when the first is 0x08..0x37, otherwise one. -/
def Obligations.FirstByteTellsLength : Prop :=
  ∀ (b lo hi : Byte) (rest : List Byte),
    ((0x08 ≤ b.toNat ∧ b.toNat ≤ 0x37) → ∃ i, decode (b :: lo :: hi :: rest) = .ok (i, rest)) ∧
      (¬(0x08 ≤ b.toNat ∧ b.toNat ≤ 0x37) → ∃ i, decode (b :: lo :: hi :: rest) = .ok (i, lo :: hi :: rest))

/-- A few words written out from the encodings of 30_encoding (R94 to R99) decode to the commands they stand for. Which
register a LATCH byte names is the spec's decision D1 (log 31). -/
def Obligations.WordsFromTheSpecDecode : Prop :=
  decode [0x8A] = .ok (.latchTone0 10, []) ∧ decode [0x9D] = .ok (.latchAtt0 13, []) ∧
    decode [0xEF] = .ok (.latchNctrl 15, []) ∧ decode [0x41] = .ok (.data 1, []) ∧
    decode [0x00] = .ok (.endStream, []) ∧ decode [0x01] = .ok (.loop, []) ∧ decode [0x05] = .ok (.rsvd 5, []) ∧
    decode [0x0A, 0x0A, 0x00] = .ok (.ref 6 10, []) ∧ decode [0x37, 0xFF, 0x01] = .ok (.ref 51 511, []) ∧
    decode [0x3F] = .ok (.eof 7, [])

/-! ### Fetch and DecodeStep -/

/-- R151 (its representation is the spec's decision D9, log 39): the restore when the region is exhausted and a resume
context is held, then the two bounds tests, then the byte. -/
def Obligations.FetchIsResumeAware : Prop :=
  ∀ s : State,
    let back : Bool := decide (s.csd.rem = 0) && s.csd.resumeValid
    let pos := if back then s.csd.resumePos else s.csd.pos
    let rem := if back then s.csd.resumeRem else s.csd.rem
    let valid := if back then false else s.csd.resumeValid
    fetch s =
      if rem = 0 ∨ s.len ≤ pos then
        .error { s with csd := { s.csd with pos := pos, rem := rem, resumeValid := valid } }
      else
        .ok (memRead s.stream pos,
          { s with csd := { s.csd with pos := pos + 1, rem := rem - 1, resumeValid := valid } })

/-- NextEvent whose command has a Fetch that fails ends in MS_BOUNDS at the `pos` of that Fetch, and nothing else is written
but what the fetches before it consumed and the model's record of the command's offset (R152 by decision D17, log 47; R274
by D35, log 65; `cmdAt` and `yielded` are the model's own fields, log 7). The first clause is the first byte's Fetch, at
top level, in a region, or after a return that finds nothing; the other two are the Fetches of a REF's offset bytes. -/
def Obligations.BoundsFaultEndsNextEvent : Prop :=
  ∀ s : State, s.active = .nextEvent →
    let back : Bool := decide (s.csd.rem = 0) && s.csd.resumeValid
    let pos := if back then s.csd.resumePos else s.csd.pos
    let rem := if back then s.csd.resumeRem else s.csd.rem
    let valid := if back then false else s.csd.resumeValid
    let failed (t : State) : State := { t with
      csd := { t.csd with
        status := .faulted .msBounds t.csd.pos none
        yielded := .fault .msBounds t.csd.pos none }
      active := .idle
      ret := .malformed .msBounds t.csd.pos none }
    (rem = 0 ∨ s.len ≤ pos →
      step s = .next (failed { s with csd := { s.csd with pos := pos, rem := rem, resumeValid := valid, cmdAt := pos } })) ∧
    (∀ b t u, fetch { s with csd := { s.csd with cmdAt := pos } } = .ok (b, t) →
      (0x08 ≤ b.toNat ∧ b.toNat ≤ 0x37) → fetch t = .error u → step s = .next (failed u)) ∧
    (∀ b lo t u v, fetch { s with csd := { s.csd with cmdAt := pos } } = .ok (b, t) →
      (0x08 ≤ b.toNat ∧ b.toNat ≤ 0x37) → fetch t = .ok (lo, u) → fetch u = .error v → step s = .next (failed v))

/-- A step runs the decoded command: when the bytes at the next Fetch's offset, after a region's return if one is due, lie
in the region and in the buffer and decode to `i`, the step is `exec i` past `i`'s bytes, then the delivery of what it
yields (41_stream_control R131, 42_back_reference R151; the valid bit is decision D9, log 39; one DecodeStep is one step,
log 9; `cmdAt` and the fields `deliver` writes are the model's own, log 7). -/
def Obligations.StepRunsTheDecodedCommand : Prop :=
  ∀ (s : State) (i : Instr) (rest : List Byte), s.active ≠ .idle →
    let back : Bool := decide (s.csd.rem = 0) && s.csd.resumeValid
    let pos := if back then s.csd.resumePos else s.csd.pos
    let rem := if back then s.csd.resumeRem else s.csd.rem
    let valid := if back then false else s.csd.resumeValid
    decode [memRead s.stream pos, memRead s.stream (pos + 1), memRead s.stream (pos + 2)] = .ok (i, rest) →
    (encode i).length ≤ rem → pos + (encode i).length ≤ s.len →
    step s = andThen
      (exec i { s with csd := { s.csd with
        cmdAt := pos, pos := pos + (encode i).length, rem := rem - (encode i).length, resumeValid := valid } })
      fun t => .next (deliver t)

/-- A REF whose region ends between its bytes takes the missing offset bytes from the return position, and the resume
context is no longer held (R164, which the spec derives from R151, R154 and R155). -/
def Obligations.CutReferenceTakesBytesAfterReturn : Prop :=
  ∀ s : State, s.csd.resumeValid = true → s.csd.pos < s.len →
    (0x08 ≤ (memRead s.stream s.csd.pos).toNat ∧ (memRead s.stream s.csd.pos).toNat ≤ 0x37) →
    (s.csd.rem = 1 → 2 ≤ s.csd.resumeRem → s.csd.resumePos + 2 ≤ s.len →
      fetchCommand s = .ok (decodeCommand (memRead s.stream s.csd.pos) (memRead s.stream s.csd.resumePos)
          (memRead s.stream (s.csd.resumePos + 1)),
        { s with csd := { s.csd with
          cmdAt := s.csd.pos, pos := s.csd.resumePos + 2, rem := s.csd.resumeRem - 2, resumeValid := false } })) ∧
    (s.csd.rem = 2 → s.csd.pos + 2 ≤ s.len → 1 ≤ s.csd.resumeRem → s.csd.resumePos + 1 ≤ s.len →
      fetchCommand s = .ok (decodeCommand (memRead s.stream s.csd.pos) (memRead s.stream (s.csd.pos + 1))
          (memRead s.stream s.csd.resumePos),
        { s with csd := { s.csd with
          cmdAt := s.csd.pos, pos := s.csd.resumePos + 1, rem := s.csd.resumeRem - 1, resumeValid := false } }))

/-- R130: what NextEvent does with a DecodeStep's yield. An event or a fault ends the call and is what it returns; after
nothing it goes on (`yielded`, `active` and `ret` are the model's own fields, log 7 and 9). -/
def Obligations.NextEventReturnsTheYield : Prop :=
  ∀ (s t u : State) (i : Instr), s.active = .nextEvent → fetchCommand s = .ok (i, t) → exec i t = .next u →
    (u.csd.yielded = .nothing → step s = .next u) ∧
    (∀ e, u.csd.yielded = .event e → step s = .next { u with active := .idle, ret := .event e }) ∧
    (∀ c o f, u.csd.yielded = .fault c o f → step s = .next { u with active := .idle, ret := .malformed c o f })

/-! ### LATCH and DATA -/

/-- R122: LATCH to a tone register replaces its low 4 bits, latches it (R121) and reports its whole new content, a payload
that is the spec's decision D4 (log 34); nothing else changes. -/
def Obligations.LatchToneReplacesLowNibble : Prop :=
  ∀ (s : State) (n : BitVec 4),
    (let v : BitVec 10 := BitVec.ofNat 10 (16 * (s.rf.tone0.toNat / 16) + n.toNat)
     exec (.latchTone0 n) s = .next { s with
       rf := { s.rf with tone0 := v }
       csd := { s.csd with latched := some .tone0, yielded := .event (.registerWrite .tone0 v) } }) ∧
    (let v : BitVec 10 := BitVec.ofNat 10 (16 * (s.rf.tone1.toNat / 16) + n.toNat)
     exec (.latchTone1 n) s = .next { s with
       rf := { s.rf with tone1 := v }
       csd := { s.csd with latched := some .tone1, yielded := .event (.registerWrite .tone1 v) } }) ∧
    (let v : BitVec 10 := BitVec.ofNat 10 (16 * (s.rf.tone2.toNat / 16) + n.toNat)
     exec (.latchTone2 n) s = .next { s with
       rf := { s.rf with tone2 := v }
       csd := { s.csd with latched := some .tone2, yielded := .event (.registerWrite .tone2 v) } })

/-- R123: LATCH to an attenuation register sets it to the nibble, latches it (R121) and reports it (payload: decision D4, log
34); nothing else changes. -/
def Obligations.LatchAttenuationSetsWholeRegister : Prop :=
  ∀ (s : State) (n : BitVec 4),
    (exec (.latchAtt0 n) s = .next { s with
       rf := { s.rf with att0 := n }
       csd := { s.csd with
         latched := some .att0, yielded := .event (.registerWrite .att0 (BitVec.ofNat 10 n.toNat)) } }) ∧
    (exec (.latchAtt1 n) s = .next { s with
       rf := { s.rf with att1 := n }
       csd := { s.csd with
         latched := some .att1, yielded := .event (.registerWrite .att1 (BitVec.ofNat 10 n.toNat)) } }) ∧
    (exec (.latchAtt2 n) s = .next { s with
       rf := { s.rf with att2 := n }
       csd := { s.csd with
         latched := some .att2, yielded := .event (.registerWrite .att2 (BitVec.ofNat 10 n.toNat)) } }) ∧
    (exec (.latchNatt n) s = .next { s with
       rf := { s.rf with natt := n }
       csd := { s.csd with
         latched := some .natt, yielded := .event (.registerWrite .natt (BitVec.ofNat 10 n.toNat)) } })

/-- R124 (the spec's decisions D2 and D3, log 32 and 33): LATCH NCTRL takes the low 3 bits of the nibble, latches the
register (R121) and reports the 3 bits (payload: D4, log 34), and reseeds the shift register exactly when
LFSR_RESET_ON_NCTRL holds; nothing else changes. -/
def Obligations.LatchNoiseControlTakesThreeBits : Prop :=
  ∀ (s : State) (n : BitVec 4),
    let v : Nat := n.toNat % 8
    exec (.latchNctrl n) s = .next { s with
      rf := { s.rf with nctrl := BitVec.ofNat 3 v }
      csd := { s.csd with
        latched := some .nctrl, yielded := .event (.registerWrite .nctrl (BitVec.ofNat 10 v)) }
      syn := { s.syn with lfsr := if s.params.lfsrResetOnNctrl = true then s.params.lfsrSeed else s.syn.lfsr } }

/-- R126, R127, R274: DATA replaces the high 6 bits of the latched tone register and reports it, `latched` keeping its
value; with no register or a non-tone register latched it raises MS_DATA_NO_TONE_LATCH at its offset with its byte.
Nothing else is written. The payload is decision D4 (log 34), the test on `latched` alone D5 (log 35), what a fault
records R274 by D35 (log 65). -/
def Obligations.DataWritesTheLatchedToneOrFaults : Prop :=
  ∀ (s : State) (d : BitVec 6),
    (s.csd.latched = some .tone0 →
      let v : BitVec 10 := BitVec.ofNat 10 (16 * d.toNat + s.rf.tone0.toNat % 16)
      exec (.data d) s = .next { s with
        rf := { s.rf with tone0 := v }
        csd := { s.csd with yielded := .event (.registerWrite .tone0 v) } }) ∧
    (s.csd.latched = some .tone1 →
      let v : BitVec 10 := BitVec.ofNat 10 (16 * d.toNat + s.rf.tone1.toNat % 16)
      exec (.data d) s = .next { s with
        rf := { s.rf with tone1 := v }
        csd := { s.csd with yielded := .event (.registerWrite .tone1 v) } }) ∧
    (s.csd.latched = some .tone2 →
      let v : BitVec 10 := BitVec.ofNat 10 (16 * d.toNat + s.rf.tone2.toNat % 16)
      exec (.data d) s = .next { s with
        rf := { s.rf with tone2 := v }
        csd := { s.csd with yielded := .event (.registerWrite .tone2 v) } }) ∧
    (s.csd.latched ∉ [some Reg.tone0, some Reg.tone1, some Reg.tone2] →
      exec (.data d) s = .next { s with csd := { s.csd with
        status := .faulted .msDataNoToneLatch s.csd.cmdAt (some (BitVec.ofNat 8 (0x40 + d.toNat)))
        yielded := .fault .msDataNoToneLatch s.csd.cmdAt (some (BitVec.ofNat 8 (0x40 + d.toNat))) } })

/-- R129, which the spec derives from R122 and R126: LATCH 2c, n and then DATA d leave TONE[c] = 16 * d + n, whatever it
held, and report first the old high part with n and then 16 * d + n (payloads: decision D4, log 34). Between the two only the fetch of the DATA has
changed the decoder. -/
def Obligations.LatchThenDataComposesThePeriod : Prop :=
  ∀ (s u : State) (n : BitVec 4) (d : BitVec 6),
    (∀ t, exec (.latchTone0 n) s = .next t → u.rf = t.rf → u.csd.latched = t.csd.latched →
      t.csd.yielded = .event (.registerWrite .tone0 (BitVec.ofNat 10 (16 * (s.rf.tone0.toNat / 16) + n.toNat))) ∧
      ∃ v, exec (.data d) u = .next v ∧ v.rf.tone0.toNat = 16 * d.toNat + n.toNat ∧
        v.csd.yielded = .event (.registerWrite .tone0 v.rf.tone0)) ∧
    (∀ t, exec (.latchTone1 n) s = .next t → u.rf = t.rf → u.csd.latched = t.csd.latched →
      t.csd.yielded = .event (.registerWrite .tone1 (BitVec.ofNat 10 (16 * (s.rf.tone1.toNat / 16) + n.toNat))) ∧
      ∃ v, exec (.data d) u = .next v ∧ v.rf.tone1.toNat = 16 * d.toNat + n.toNat ∧
        v.csd.yielded = .event (.registerWrite .tone1 v.rf.tone1)) ∧
    (∀ t, exec (.latchTone2 n) s = .next t → u.rf = t.rf → u.csd.latched = t.csd.latched →
      t.csd.yielded = .event (.registerWrite .tone2 (BitVec.ofNat 10 (16 * (s.rf.tone2.toNat / 16) + n.toNat))) ∧
      ∃ v, exec (.data d) u = .next v ∧ v.rf.tone2.toNat = 16 * d.toNat + n.toNat ∧
        v.csd.yielded = .event (.registerWrite .tone2 v.rf.tone2))

/-! ### END, LOOP, RSVD, EOF -/

/-- R132's pseudocode: END without a loop context sets `status` to Ended and emits EndOfStream; `pos` stays one past the END
byte and nothing else is written. -/
def Obligations.EndWithoutLoopContextEndsTheStream : Prop :=
  ∀ s : State, s.csd.loopValid = false →
    exec .endStream s = .next { s with csd := { s.csd with status := .ended, yielded := .event .endOfStream } }

/-- END with a loop context writes the pair from it and nothing else, and yields nothing (R133, whose reach is the spec's
decision D11, log 41). -/
def Obligations.EndWithLoopContextJumps : Prop :=
  ∀ s : State, s.csd.loopValid = true →
    exec .endStream s = .next { s with csd := { s.csd with
      pos := s.csd.loopPos, rem := s.csd.loopRem, yielded := .nothing } }

/-- R135: the first LOOP captures the pair, already past the marker, sets `loop_valid` and emits LoopStart. In a step, whose
fetch has consumed the marker at `cmdAt`, the snapshot names the byte after the marker, and an END that jumps to it goes
there and not to the marker. -/
def Obligations.FirstLoopCapturesThePair : Prop :=
  (∀ s : State, s.csd.loopValid = false →
    exec .loop s = .next { s with csd := { s.csd with
      loopPos := s.csd.pos, loopRem := s.csd.rem, loopValid := true, yielded := .event .loopStart } }) ∧
  ∀ s u : State, s.active ≠ .idle → s.csd.loopValid = false → fetchCommand s = .ok (.loop, u) →
    memRead s.stream u.csd.cmdAt = 0x01 ∧
    ∃ t, step s = .next t ∧ t.csd = { u.csd with
        loopPos := u.csd.cmdAt + 1, loopRem := u.csd.rem, loopValid := true, yielded := .event .loopStart } ∧
      ∀ v w, v.csd.loopValid = true → v.csd.loopPos = t.csd.loopPos → v.csd.loopRem = t.csd.loopRem →
        exec .endStream v = .next w → w.csd.pos = u.csd.cmdAt + 1 ∧ w.csd.rem = u.csd.rem

/-- A later LOOP emits LoopStart again and leaves the loop context unchanged (R136, the spec's decision D12, log 42). -/
def Obligations.LaterLoopKeepsTheContext : Prop :=
  ∀ s : State, s.csd.loopValid = true →
    exec .loop s = .next { s with csd := { s.csd with yielded := .event .loopStart } }

/-- A reserved byte raises MS_RESERVED at its offset with the byte, and nothing else is written (R137, the spec's decision
D13, log 43; R274 by D35, log 65). -/
def Obligations.ReservedByteFaults : Prop :=
  ∀ (s : State) (k : BitVec 3),
    exec (.rsvd k) s = .next { s with csd := { s.csd with
      status := .faulted .msReserved s.csd.cmdAt (some (BitVec.ofNat 8 k.toNat))
      yielded := .fault .msReserved s.csd.cmdAt (some (BitVec.ofNat 8 k.toNat)) } }

/-- EOF advances FC by nnn + 1 modulo 2^FCW and emits EndOfFrame(nnn + 1) (R138, the spec's decisions D6 and D7, log 36
and 37). -/
def Obligations.EofAdvancesTheFrameCounter : Prop :=
  ∀ (s : State) (nnn : BitVec 3),
    exec (.eof nnn) s = .next { s with csd := { s.csd with
      fc := (s.csd.fc + (nnn.toNat + 1)) % 2 ^ s.params.fcw
      yielded := .event (.endOfFrame (nnn.toNat + 1)) } }

/-! ### REF -/

/-- R155, R156: a REF whose offset is at or past the end of the buffer raises MS_DANGLING_REF, at top level or nested; one
with a good offset met while a resume context is held raises MS_NESTED_REF; neither writes anything else. One with a good
offset at top level saves the pair, sets `resume_valid` and repoints the pair to (off, len), and yields nothing. The
nested fault is the spec's decision D10 (log 40), what a fault records D35 (log 65). -/
def Obligations.RefFaultsOrEntersTheRegion : Prop :=
  ∀ (s : State) (len : BitVec 6) (off : BitVec 16),
    (s.len ≤ off.toNat →
      exec (.ref len off) s = .next { s with csd := { s.csd with
        status := .faulted .msDanglingRef s.csd.cmdAt (some (BitVec.ofNat 8 (len.toNat + 4)))
        yielded := .fault .msDanglingRef s.csd.cmdAt (some (BitVec.ofNat 8 (len.toNat + 4))) } }) ∧
    (off.toNat < s.len → s.csd.resumeValid = true →
      exec (.ref len off) s = .next { s with csd := { s.csd with
        status := .faulted .msNestedRef s.csd.cmdAt (some (BitVec.ofNat 8 (len.toNat + 4)))
        yielded := .fault .msNestedRef s.csd.cmdAt (some (BitVec.ofNat 8 (len.toNat + 4))) } }) ∧
    (off.toNat < s.len → s.csd.resumeValid = false →
      exec (.ref len off) s = .next { s with csd := { s.csd with
        resumePos := s.csd.pos, resumeRem := s.csd.rem, resumeValid := true
        pos := off.toNat, rem := len.toNat, yielded := .nothing } })

/-! ### All commands -/

/-- Every command completes, in every state: the dispatch is total and a fault is a next state (41_stream_control R131,
60_exceptions R274). -/
def Obligations.EveryCommandCompletes : Prop :=
  ∀ (i : Instr) (s : State), ∃ t, exec i s = .next t

/-- The frame of all fourteen commands (10_state R26, R29, R35, 20_memory R61): no byte of the stream, no slot of the PCM
space, no configuration, nothing of SEQ or of the interface changes; registers change under LATCH and DATA only, the
latched register under LATCH only, the shift register under LATCH NCTRL only and nothing else of SYN ever, the frame
counter under EOF only, the loop context under LOOP only, the resume context under REF only, the pair under REF and END
only, and the status only under END and where the command yields a fault. -/
def Obligations.CommandsLeaveTheRestAlone : Prop :=
  ∀ (i : Instr) (s t : State), exec i s = .next t →
    ((∀ a, memRead t.stream a = memRead s.stream a) ∧ t.len = s.len ∧ t.params = s.params) ∧
    ((∀ k, readSlot t.pcm k = readSlot s.pcm k) ∧ t.pcm.slots = s.pcm.slots) ∧
    (t.seq = s.seq ∧ t.active = s.active ∧ t.ret = s.ret ∧ t.calls = s.calls ∧ t.submitted = s.submitted) ∧
    (t.rf ≠ s.rf → isLatch i = true ∨ isData i = true) ∧
    (t.csd.latched ≠ s.csd.latched → isLatch i = true) ∧
    t.syn = { s.syn with lfsr := t.syn.lfsr } ∧
    (t.syn.lfsr ≠ s.syn.lfsr → ∃ n, i = .latchNctrl n) ∧
    (t.csd.fc ≠ s.csd.fc → ∃ n, i = .eof n) ∧
    (t.csd.loopValid ≠ s.csd.loopValid ∨ t.csd.loopPos ≠ s.csd.loopPos ∨ t.csd.loopRem ≠ s.csd.loopRem → i = .loop) ∧
    (t.csd.resumeValid ≠ s.csd.resumeValid ∨ t.csd.resumePos ≠ s.csd.resumePos ∨ t.csd.resumeRem ≠ s.csd.resumeRem →
      ∃ len off, i = .ref len off) ∧
    (t.csd.pos ≠ s.csd.pos ∨ t.csd.rem ≠ s.csd.rem → i = .endStream ∨ ∃ len off, i = .ref len off) ∧
    (t.csd.status ≠ s.csd.status → i = .endStream ∨ ∃ c o f, t.csd.yielded = .fault c o f) ∧
    t.csd.cmdAt = s.csd.cmdAt

/-! ### The whole machine -/

/-- NextEvent begins in Running, its DecodeSteps following, one a step (R130; log 9); out of Running it returns INVALID_CALL,
fetches nothing and changes no field of the core (R140, the spec's decision D14, log 44; `active` and `ret` are the model's
own fields, log 7). -/
def Obligations.NextEventBeginsOnlyInRunning : Prop :=
  ∀ (s : State) (rest : List HostCall), s.active = .idle → s.calls = .nextEvent :: rest →
    (s.csd.status = .running → step s = .next { s with calls := rest, active := .nextEvent }) ∧
    (s.csd.status ≠ .running → step s = .next { s with calls := rest, ret := .invalidCall })

/-- Ended and Faulted are left only by Reset (R276 and R311, the spec's decisions D14 and D29, log 44 and 59). -/
def Obligations.OnlyResetLeavesEndedOrFaulted : Prop :=
  ∀ s t : State, ActiveOnlyWhenRunning s → s.csd.status ≠ .running → step s = .next t →
    t.csd.status = s.csd.status ∨ IsLegalReset s

/-- R26: RF is written only by LATCH, DATA and Reset. -/
def Obligations.OnlyLatchDataAndResetWriteRegisters : Prop :=
  ∀ s t : State, step s = .next t → t.rf ≠ s.rf →
    (s.active ≠ .idle ∧ ∃ i u, fetchCommand s = .ok (i, u) ∧ (isLatch i = true ∨ isData i = true)) ∨ IsLegalReset s

/-- The stream and the configuration change only by Reset (R21, which the spec derives; R77 by decision D33, log 63). -/
def Obligations.OnlyResetChangesStreamAndConfiguration : Prop :=
  ∀ s t : State, step s = .next t →
    (t.params = s.params ∧ t.len = s.len ∧ ∀ a, memRead t.stream a = memRead s.stream a) ∨ IsLegalReset s

/-- R31: once set in a session, the loop context is never cleared and never changes. -/
def Obligations.LoopContextNeverChangesOnceSet : Prop :=
  ∀ s t : State, s.csd.loopValid = true → step s = .next t →
    (t.csd.loopValid = true ∧ t.csd.loopPos = s.csd.loopPos ∧ t.csd.loopRem = s.csd.loopRem) ∨ IsLegalReset s

/-- Without a loop context NextEvent returns after at most two DecodeSteps (R165, which the spec derives from R155, R157
and R131). -/
def Obligations.NextEventReturnsWithinTwoDecodeSteps : Prop :=
  ∀ s : State, s.active = .nextEvent → s.csd.loopValid = false →
    ∃ t, step s = .next t ∧ (t.active = .idle ∨ ∃ u, step t = .next u ∧ u.active = .idle)

/-- Once a loop context is captured CSD never goes to Ended and SEQ never to Ending (R220, which the spec derives from R213
and R133). -/
def Obligations.LoopStreamNeverEnds : Prop :=
  ∀ s t : State, s.csd.loopValid = true → step s = .next t →
    (t.csd.status = .ended → s.csd.status = .ended) ∧ (t.seq.mode = .ending → s.seq.mode = .ending)

/-! ### Reset -/

/-- A configuration is legal exactly when every constraint of the table of R8 and the headroom relation of R10 (decision
D28, log 58) hold. -/
def Obligations.LegalIsEveryConstraint : Prop :=
  ∀ (p : Params) (len : Nat), p.legal len = true ↔
    (len ≤ p.lenMax ∧ 65536 ≤ p.lenMax ∧ 16 ≤ p.clk ∧ 1 ≤ p.rate ∧
      (∀ c, (h : c < 4) → p.panL[c] ≤ p.panDen ∧ p.panR[c] ≤ p.panDen) ∧ 1 ≤ p.panDen ∧ 1 ≤ p.outDiv ∧
      p.vol[15] = 0 ∧ (∀ a, (h : a < 15) → p.vol[a + 1] ≤ p.vol[a]) ∧ 0 < p.vol[0] ∧ p.tapMask ≠ 0 ∧
      (∀ k, (h : k < 3) → 1 ≤ p.noiseDiv[k]) ∧ p.lfsrSeed ≠ 0 ∧ 20 ≤ p.frameHz ∧ p.frameHz ≤ 100 ∧ 1 ≤ p.fcw ∧
      1 ≤ p.block ∧ 4 * p.vol[0] ≤ 32767 * p.outDiv)

/-- R310 and R48 (the spec's decision D29, log 59): Reset with a legal CFG takes it and the buffer and gives every field
its reset value; with an illegal one it returns INVALID_PARAMETER and changes no field of the core. That the parameter
lists every broken constraint (log 17) and that Reset returns `.done` and keeps the waiting calls (log 14 and 15) is the
model's choice. -/
def Obligations.ResetTakesLegalConfigurationsOnly : Prop :=
  ∀ (s : State) (p : Params) (bytes : List Byte) (rest : List HostCall), s.active = .idle →
    s.calls = .reset p bytes :: rest →
    (p.legal bytes.length = true → ∃ t, step s = .next t ∧ t.params = p ∧ t.len = bytes.length ∧
      (∀ a, (h : a < bytes.length) → memRead t.stream a = bytes[a]) ∧
      t.rf = { tone0 := 0, att0 := 15, tone1 := 0, att1 := 15, tone2 := 0, att2 := 15, nctrl := 0, natt := 15 } ∧
      t.csd.pos = 0 ∧ t.csd.rem = bytes.length ∧ t.csd.resumeValid = false ∧ t.csd.loopValid = false ∧
      t.csd.latched = none ∧ t.csd.fc = 0 ∧ t.csd.status = .running ∧
      t.syn = { cnt0 := 0, cnt1 := 0, cnt2 := 0, cnt3 := 0, pol0 := .plus, pol1 := .plus, pol2 := .plus,
                lfsr := p.lfsrSeed, acc := 0 } ∧
      t.seq = { mode := .idle, budget := 0, haveBuf := false, cursor := 0, term := .none } ∧
      t.ret = .done ∧ t.active = .idle ∧ t.calls = rest) ∧
    (p.legal bytes.length = false →
      step s = .next { s with calls := rest, ret := .invalidParameter (p.violations bytes.length) } ∧
        p.violations bytes.length ≠ [])

/-- What State.reset holds (R48, decision D29, log 59), but for the values the spec leaves unspecified. Its empty buffer and
the free configuration of its session are the model's choice (log 3 and 4); FCW = 32 is decision D7 (log 37). -/
def Obligations.StateResetHoldsTheResetValues : Prop :=
  State.reset.rf = { tone0 := 0, att0 := 15, tone1 := 0, att1 := 15, tone2 := 0, att2 := 15, nctrl := 0, natt := 15 } ∧
    State.reset.csd.pos = 0 ∧ State.reset.csd.rem = State.reset.len ∧ State.reset.csd.resumeValid = false ∧
    State.reset.csd.loopValid = false ∧ State.reset.csd.latched = none ∧ State.reset.csd.fc = 0 ∧
    State.reset.csd.status = .running ∧
    State.reset.syn = { cnt0 := 0, cnt1 := 0, cnt2 := 0, cnt3 := 0, pol0 := .plus, pol1 := .plus, pol2 := .plus,
                        lfsr := State.reset.params.lfsrSeed, acc := 0 } ∧
    State.reset.seq = { mode := .idle, budget := 0, haveBuf := false, cursor := 0, term := .none } ∧
    State.reset.params.fcw = 32

/-! ### Invariants -/

/-- Every invariant below holds at State.reset, whose empty buffer and configuration are the model's choice (log 3 and 4).
None speaks of a saved pair whose valid bit is 0 (log 6). -/
def Obligations.InvariantsHoldAtReset : Prop :=
  MemoryCanonical State.reset ∧ PositionsBounded State.reset ∧ CountersBounded State.reset ∧
    ActiveOnlyWhenRunning State.reset ∧ TopRegionEndsAtLen State.reset

/-- Both address spaces, and the buffers at the sink, keep the canonical form of the model's sparse arrays (log 5). -/
def Obligations.EveryStepKeepsMemoryCanonical : Prop :=
  ∀ s t : State, MemoryCanonical s → step s = .next t → MemoryCanonical t

/-- `pos` and `rem` keep their bounds, and so does a saved pair while its valid bit is set, so that no arithmetic on them
wraps (R28, the spec's decision D8, log 38; R30 and R31). -/
def Obligations.EveryStepKeepsPositionsBounded : Prop :=
  ∀ s t : State, PositionsBounded s → step s = .next t → PositionsBounded t

/-- The accumulator stays below RATE (R40, which the spec derives), FC within its width (R33, decision D7, log 37) and the
cursor within the buffer (R42). -/
def Obligations.EveryStepKeepsCountersBounded : Prop :=
  ∀ s t : State, CountersBounded s → step s = .next t → CountersBounded t

/-- An operation is in progress only while CSD is Running (R130; R140 by decision D14, log 44; `active` is the model's own
field, log 7). -/
def Obligations.EveryStepKeepsActiveOnlyWhenRunning : Prop :=
  ∀ s t : State, ActiveOnlyWhenRunning s → step s = .next t → ActiveOnlyWhenRunning t

/-- As long as no LOOP captures a pair inside a referenced region, the top-level pair ends at LEN (R36, which the spec
derives from R151, R155 and R133). -/
def Obligations.EveryStepKeepsTopRegionEndingAtLen : Prop :=
  ∀ s t : State, TopRegionEndsAtLen s → step s = .next t →
    (∀ u, s.active ≠ .idle → fetchCommand s = .ok (.loop, u) → u.csd.resumeValid = false ∨ u.csd.loopValid = true) →
    TopRegionEndsAtLen t

/-! ### Laws of the decoder -/

/-- Without REF and LOOP, DecodeStep k + 1 runs the command at offset k, up to and including the first END (R139, which the
spec derives from R131 and R151). -/
def Obligations.LinearScanReadsTheStreamInOrder : Prop :=
  ∀ (p : Params) (bytes : List Byte) (k : Nat) (h : k < bytes.length),
    (∀ j, (hj : j < k) → steersStream bytes[j] = false) →
    (steersStream bytes[k] = false ∨ bytes[k] = 0) →
    (csdRun k (sessionStart p bytes)).csd.status = .running →
    ∃ t, decoded (csdRun k (sessionStart p bytes)) = some (decodeCommand bytes[k] 0 0, t) ∧
      t.csd.cmdAt = k ∧ t.csd.pos = k + 1

/-- R159, which the spec derives from R151 and R155: a back-reference at top level is transparent. As long as its region
holds, in command position, no REF, no LOOP and no END that would jump, the DecodeSteps after the REF yield the events,
and leave the registers, the frame counter and the status, that decoding the region's bytes in place would. After all
its bytes the next Fetch's restore returns to the byte after the REF's three, at top level. -/
def Obligations.BackReferenceIsTransparent : Prop :=
  ∀ (s u : State) (len : BitVec 6) (off : BitVec 16),
    decoded s = some (.ref len off, u) → (restoreRegion s).csd.resumeValid = false →
    off.toNat + len.toNat ≤ s.len →
    let inPlace : State := { u with csd := { u.csd with pos := off.toNat, rem := len.toNat } }
    ∀ k, k ≤ len.toNat →
      (∀ j, j < k → (csdRun j inPlace).csd.status = .running →
        let b := (memRead s.stream (off.toNat + j)).toNat
        b ≠ 1 ∧ ¬(0x08 ≤ b ∧ b ≤ 0x37) ∧ (b = 0 → s.csd.loopValid = false)) →
      eventLog (k + 1) s = eventLog k inPlace ∧
      (csdRun (k + 1) s).rf = (csdRun k inPlace).rf ∧ (csdRun (k + 1) s).syn = (csdRun k inPlace).syn ∧
      (csdRun (k + 1) s).csd.latched = (csdRun k inPlace).csd.latched ∧
      (csdRun (k + 1) s).csd.fc = (csdRun k inPlace).csd.fc ∧
      (csdRun (k + 1) s).csd.status = (csdRun k inPlace).csd.status ∧
      (k = len.toNat → (csdRun k inPlace).csd.status = .running →
        (restoreRegion (csdRun (k + 1) s)).csd.pos = u.csd.cmdAt + 3 ∧
        (restoreRegion (csdRun (k + 1) s)).csd.resumeValid = false ∧
        (TopRegionEndsAtLen s → (restoreRegion (csdRun (k + 1) s)).csd.rem = s.len - (u.csd.cmdAt + 3)))

/-- Loop splicing (R160, which the spec derives from R151, R155, R133 and R135): when LOOP and END are both decoded at top
level, the jump puts CSD where it was just after the LOOP, except for RF, `latched` and FC; and the snapshot ends at
LEN. -/
def Obligations.LoopJumpRestoresTheStateAfterLoop : Prop :=
  ∀ (s u v : State) (k : Nat), decoded s = some (.loop, u) → u.csd.resumeValid = false → u.csd.loopValid = false →
    decoded (csdRun k (csdStep s)) = some (.endStream, v) → v.csd.resumeValid = false →
    let after := csdStep s
    let again := csdRun (k + 1) after
    again.csd.pos = after.csd.pos ∧ again.csd.rem = after.csd.rem ∧
      again.csd.resumeValid = after.csd.resumeValid ∧ again.csd.loopValid = after.csd.loopValid ∧
      again.csd.loopPos = after.csd.loopPos ∧ again.csd.loopRem = after.csd.loopRem ∧
      again.csd.status = after.csd.status ∧
      (TopRegionEndsAtLen s → after.csd.loopPos + after.csd.loopRem = s.len)

/-! ### SYN -/

/-- R176 (the spec's decision D19, log 49): a tick's cycles and remainder, their sums over any number of ticks from an empty
accumulator, and that RATE ticks have exactly CLK div 16 cycles and empty it again. -/
def Obligations.ClockConversionLosesNoCycle : Prop :=
  ∀ p : Params, 1 ≤ p.rate →
    (∀ acc, clockStep p acc = ((acc + p.clk / 16) / p.rate, (acc + p.clk / 16) % p.rate)) ∧
    (∀ n, clockRun p n = (n * (p.clk / 16) / p.rate, n * (p.clk / 16) % p.rate)) ∧
    clockRun p p.rate = (p.clk / 16, 0)

/-- R181 to R183 (the spec's decisions D20 and D21, log 50 and 51): a tone channel of period 0 or 1 is pinned high with its
counter held; one of period P >= 2 counts down, and at or below zero flips k = ((-x) div P) + 1 times and lands in
1..P. -/
def Obligations.ToneChannelFollowsItsPeriod : Prop :=
  ∀ (period cycles : Nat) (cnt : Int) (pol : Polarity),
    let x : Int := cnt - cycles
    let k : Nat := (-x).toNat / period + 1
    (period ≤ 1 → toneStep period cycles cnt pol = (cnt, .plus)) ∧
    (2 ≤ period → 0 < x → toneStep period cycles cnt pol = (x, pol)) ∧
    (2 ≤ period → x ≤ 0 →
      toneStep period cycles cnt pol = (x + k * period, if k % 2 = 1 then flipPolarity pol else pol) ∧
        1 ≤ x + k * period ∧ x + k * period ≤ period)

/-- R185 and R186 (the spec's decision D22, log 52): the noise channel's period is NOISE_DIV[NCTRL[1:0]] or TONE2; with
period 0 it is held; else it counts down and at or below zero shifts k = ((-x) div PN) + 1 times. -/
def Obligations.NoiseChannelFollowsItsPeriod : Prop :=
  (∀ (p : Params) (rf : RegFile),
    (rf.nctrl.toNat % 4 = 0 → noisePeriod p rf = p.noiseDiv[0]) ∧
    (rf.nctrl.toNat % 4 = 1 → noisePeriod p rf = p.noiseDiv[1]) ∧
    (rf.nctrl.toNat % 4 = 2 → noisePeriod p rf = p.noiseDiv[2]) ∧
    (rf.nctrl.toNat % 4 = 3 → noisePeriod p rf = rf.tone2.toNat)) ∧
  ∀ (mask : BitVec 16) (white : Bool) (period cycles : Nat) (cnt : Int) (lfsr : BitVec 16),
    let x : Int := cnt - cycles
    let k : Nat := (-x).toNat / period + 1
    (period = 0 → noiseStep mask white period cycles cnt lfsr = (cnt, lfsr)) ∧
    (1 ≤ period → 0 < x → noiseStep mask white period cycles cnt lfsr = (x, lfsr)) ∧
    (1 ≤ period → x ≤ 0 →
      noiseStep mask white period cycles cnt lfsr = (x + k * period, (shiftLfsr mask white)^[k] lfsr) ∧
        1 ≤ x + k * period ∧ x + k * period ≤ period)

/-- R187 (the spec's decisions D23 and D24, log 53 and 54): a shift moves the register right by one and feeds back bit 0 in
periodic mode, the parity of the tapped bits in white mode; in periodic mode sixteen shifts return to the start. -/
def Obligations.ShiftFeedsBackBitOrParity : Prop :=
  ∀ mask lfsr : BitVec 16,
    (shiftLfsr mask false lfsr).toNat = lfsr.toNat / 2 + 32768 * (lfsr.toNat % 2) ∧
    (shiftLfsr mask true lfsr).toNat =
      lfsr.toNat / 2 + 32768 * ((∑ i ∈ Finset.range 16, (lfsr &&& mask).toNat / 2 ^ i % 2) % 2) ∧
    (shiftLfsr mask false)^[16] lfsr = lfsr

/-- R41, which the spec derives from R187: 0 is a fixed point of both laws and is not reached from a nonzero register in
periodic mode, nor in white mode when bit 0 of TAP_MASK is set. -/
def Obligations.ShiftReachesZeroOnlyFromZero : Prop :=
  ∀ mask lfsr : BitVec 16,
    shiftLfsr mask false 0 = 0 ∧ shiftLfsr mask true 0 = 0 ∧
    (lfsr ≠ 0 → shiftLfsr mask false lfsr ≠ 0) ∧
    (lfsr ≠ 0 → mask.toNat % 2 = 1 → shiftLfsr mask true lfsr ≠ 0)

/-- R172: what a tick does to each counter, polarity, the shift register and the accumulator: the clock conversion first
(R176, decision D19, log 49), then each tone channel with its own register's period (R181 and R182), then the noise channel
(R185 to R187), white when NCTRL[2] = 1, which is the spec's decision D23 (log 53). -/
def Obligations.TickStepsEveryChannel : Prop :=
  ∀ (p : Params) (rf : RegFile) (syn : Synth),
    let cycles := (clockStep p syn.acc).1
    let t := synTick p rf syn
    (t.cnt0, t.pol0) = toneStep rf.tone0.toNat cycles syn.cnt0 syn.pol0 ∧
    (t.cnt1, t.pol1) = toneStep rf.tone1.toNat cycles syn.cnt1 syn.pol1 ∧
    (t.cnt2, t.pol2) = toneStep rf.tone2.toNat cycles syn.cnt2 syn.pol2 ∧
    (t.cnt3, t.lfsr) =
      noiseStep p.tapMask (decide (rf.nctrl.toNat / 4 % 2 = 1)) (noisePeriod p rf) cycles syn.cnt3 syn.lfsr ∧
    t.acc = (clockStep p syn.acc).2

/-- The value a tick adds (R190 to R193 and R196, the spec's decisions D25 to D28, log 55 to 58). Mono adds the sum of the
four channel samples, divided once by OUT_DIV toward zero, to slot k; stereo adds the two weighted sums, divided by
PAN_DEN * OUT_DIV, to slots 2k and 2k + 1. Every other slot and everything but SYN and the PCM space is left alone. -/
def Obligations.TickMixesIntoItsSlots : Prop :=
  ∀ (s : State) (k : Nat), Cells.wf s.pcm.cells = true →
    let syn := synTick s.params s.rf s.syn
    let amp (a : BitVec 4) : Int := (s.params.vol[a.toNat]'a.isLt : Nat)
    let sign (pol : Polarity) : Int := if pol = .plus then 1 else -1
    let s0 := sign syn.pol0 * amp s.rf.att0
    let s1 := sign syn.pol1 * amp s.rf.att1
    let s2 := sign syn.pol2 * amp s.rf.att2
    let s3 := (if syn.lfsr.toNat % 2 = 1 then 1 else -1) * amp s.rf.natt
    let m := Int.tdiv (s0 + s1 + s2 + s3) s.params.outDiv
    let l := Int.tdiv (s0 * s.params.panL[0] + s1 * s.params.panL[1] + s2 * s.params.panL[2] + s3 * s.params.panL[3])
      (s.params.panDen * s.params.outDiv)
    let r := Int.tdiv (s0 * s.params.panR[0] + s1 * s.params.panR[1] + s2 * s.params.panR[2] + s3 * s.params.panR[3])
      (s.params.panDen * s.params.outDiv)
    (s.params.stereo = false → k < s.pcm.slots → -32768 ≤ readSlot s.pcm k + m → readSlot s.pcm k + m ≤ 32767 →
      ∃ t, renderTick k s = .next t ∧ t = { s with syn := syn, pcm := t.pcm } ∧ t.pcm.slots = s.pcm.slots ∧
        ∀ i, readSlot t.pcm i = if i = k then readSlot s.pcm k + m else readSlot s.pcm i) ∧
    (s.params.stereo = true → 2 * k + 1 < s.pcm.slots →
      -32768 ≤ readSlot s.pcm (2 * k) + l → readSlot s.pcm (2 * k) + l ≤ 32767 →
      -32768 ≤ readSlot s.pcm (2 * k + 1) + r → readSlot s.pcm (2 * k + 1) + r ≤ 32767 →
      ∃ t, renderTick k s = .next t ∧ t = { s with syn := syn, pcm := t.pcm } ∧ t.pcm.slots = s.pcm.slots ∧
        ∀ i, readSlot t.pcm i =
          if i = 2 * k then readSlot s.pcm (2 * k) + l
          else if i = 2 * k + 1 then readSlot s.pcm (2 * k + 1) + r else readSlot s.pcm i)

/-- PcmAdd puts the sum into its slot when it fits 16 bits and is refused when it does not (R70, the spec's decision D28,
log 58); that a slot the buffer does not have is refused too is the model's choice (log 12). -/
def Obligations.PcmAddAccumulatesOrRefuses : Prop :=
  ∀ (s : State) (i : Nat) (v : Int), Cells.wf s.pcm.cells = true →
    (i < s.pcm.slots → -32768 ≤ readSlot s.pcm i + v → readSlot s.pcm i + v ≤ 32767 →
      ∃ t, pcmAdd i v s = .next t ∧ t = { s with pcm := t.pcm } ∧ t.pcm.slots = s.pcm.slots ∧
        ∀ j, readSlot t.pcm j = if j = i then readSlot s.pcm i + v else readSlot s.pcm j) ∧
    (i < s.pcm.slots → (readSlot s.pcm i + v < -32768 ∨ 32767 < readSlot s.pcm i + v) →
      pcmAdd i v s = .refused .pcmOverflow) ∧
    (s.pcm.slots ≤ i → pcmAdd i v s = .refused .pcmSlotMissing)

/-- Render(a + b, dst) is Render(a, dst) and then Render(b, dst + a) (R170, which the spec derives from R172). -/
def Obligations.RenderSplitsAnywhere : Prop :=
  ∀ (a b dst : Nat) (s : State), render (a + b) dst s = andThen (render a dst s) (render b (dst + a))

/-- The host's call Render(n, dst) is `render`, whatever CSD's status (R170; R277, which the spec derives; the return `.done`
is the model's choice, log 15), and it writes the slots of its frames and no other, and of the core's state SYN only
(R72). -/
def Obligations.RenderTouchesOnlyItsFrames : Prop :=
  (∀ (n dst : Nat) (s : State) (rest : List HostCall), s.active = .idle → s.calls = .render n dst :: rest →
    step s = andThen (render n dst { s with calls := rest }) fun t => .next { t with ret := .done }) ∧
  ∀ (n dst : Nat) (s t : State), render n dst s = .next t →
    let width := if s.params.stereo = true then 2 else 1
    t = { s with syn := t.syn, pcm := t.pcm } ∧ t.pcm.slots = s.pcm.slots ∧
      ∀ i, (i < width * dst ∨ width * (dst + n) ≤ i) → readSlot t.pcm i = readSlot s.pcm i

/-- With a legal configuration (R10, decision D28, log 58) and slots that are zero, Render never fails (R171; R197, which
the spec derives), and the step that takes the host's call completes with the same SYN and the same slots, whatever CSD's
status (R277, which the spec derives; the return `.done` is the model's choice, log 15). -/
def Obligations.RenderCompletesOnZeroSlots : Prop :=
  ∀ (n dst : Nat) (s : State), ConfigLegal s → Cells.wf s.pcm.cells = true →
    let width := if s.params.stereo = true then 2 else 1
    width * (dst + n) ≤ s.pcm.slots →
    (∀ i, width * dst ≤ i → i < width * (dst + n) → readSlot s.pcm i = 0) →
    ∃ t, render n dst s = .next t ∧
      ∀ rest, step { s with active := .idle, calls := .render n dst :: rest } =
        .next { t with active := .idle, calls := rest, ret := .done }

/-- From the registers and polarities of Reset every tick adds 0 to its slots (R199, which the spec derives from R181, R186,
R190 and R27). -/
def Obligations.SilenceAfterReset : Prop :=
  ∀ (n dst : Nat) (s : State), ConfigLegal s → Cells.wf s.pcm.cells = true → s.rf = RegFile.reset →
    s.syn.pol0 = .plus → s.syn.pol1 = .plus → s.syn.pol2 = .plus →
    let width := if s.params.stereo = true then 2 else 1
    width * (dst + n) ≤ s.pcm.slots →
    ∃ t, render n dst s = .next t ∧ (∀ i, readSlot t.pcm i = readSlot s.pcm i) ∧
      t.syn.pol0 = .plus ∧ t.syn.pol1 = .plus ∧ t.syn.pol2 = .plus

/-- R198: what Render adds to every slot, and SYN's next state, depend on RF, SYN and CFG alone: two Renders that agree on
them add the same values and leave the same SYN, whatever else differs, the buffers included. Where the buffers are equal
too, both complete or neither does, and the samples are equal. -/
def Obligations.RenderReadsOnlyItsInputs : Prop :=
  ∀ (n dst : Nat) (s s' : State), s'.params = s.params → s'.rf = s.rf → s'.syn = s.syn →
    (∀ t t', render n dst s = .next t → render n dst s' = .next t' →
      t'.syn = t.syn ∧
      (Cells.wf s.pcm.cells = true → Cells.wf s'.pcm.cells = true →
        ∀ i, readSlot t'.pcm i - readSlot s'.pcm i = readSlot t.pcm i - readSlot s.pcm i)) ∧
    (s'.pcm = s.pcm → ∀ t, render n dst s = .next t →
      ∃ t', render n dst s' = .next t' ∧ t'.syn = t.syn ∧ t'.pcm = t.pcm)

/-! ### SEQ -/

/-- Start from Idle clears the terminal status and begins CommandProcessing, and does nothing elsewhere; Cancel drops a held
buffer, reports Cancelled and goes to Idle, and does nothing from Idle (R211 and R218, the spec's decisions D31 and D41,
log 61 and 71). Neither touches CSD, RF or SYN. That Start asks for no Reset before it and looks at no status of CSD is the
model's reading (log 19: R211 and R311 ask the host for it); the return `.done`, and that no buffer is current after the
drop, are its choice (log 15 and 24). -/
def Obligations.StartAndCancelSwitchPlayback : Prop :=
  ∀ (s : State) (rest : List HostCall), s.active = .idle →
    (s.calls = .start :: rest →
      (s.seq.mode = .idle → step s = .next { s with
        calls := rest, ret := .done, seq := { s.seq with term := .none, mode := .commandProcessing } }) ∧
      (s.seq.mode ≠ .idle → step s = .next { s with calls := rest, ret := .done })) ∧
    (s.calls = .cancel :: rest →
      (s.seq.mode ≠ .idle → step s = .next { s with
        calls := rest, ret := .done
        pcm := if s.seq.haveBuf = true then PcmBuffer.empty else s.pcm
        seq := { mode := .idle, budget := 0, haveBuf := false, cursor := 0, term := .cancelled } }) ∧
      (s.seq.mode = .idle → step s = .next { s with calls := rest, ret := .done }))

/-- A Tick in CommandProcessing pulls events (R213, R214, R219, the spec's decisions D30, D31, D39 and D41, log 60, 61, 69
and 71). It goes on at RegisterWrite, LoopStart and nothing; EndOfFrame(f) sets the budget to f * (RATE div FRAME_HZ) and
goes to Waiting; EndOfStream submits a buffer that holds frames and goes to Ending; a fault, be it of the command or of one
of its Fetches (R152, R274 by D35, log 65), stops playback with Failed(code). That the submitted buffer is no longer addressable while `have_buf` keeps its value is the model's reading
(log 20), the return `.done`, and that no buffer is current after a submit or a drop, its choice (log 15 and 24). -/
def Obligations.CommandProcessingActsOnEvents : Prop :=
  ∀ s : State, s.active = .tick →
    (∀ t, fetchCommand s = .error t → step s = .next { t with
      csd := { t.csd with status := .faulted .msBounds t.csd.pos none, yielded := .fault .msBounds t.csd.pos none }
      active := .idle, ret := .done
      pcm := if s.seq.haveBuf = true then PcmBuffer.empty else s.pcm
      seq := { mode := .idle, budget := 0, haveBuf := false, cursor := 0, term := .failed .msBounds } }) ∧
    ∀ (t u : State) (i : Instr), fetchCommand s = .ok (i, t) → exec i t = .next u →
      (u.csd.yielded = .nothing → step s = .next u) ∧
      (∀ r v, u.csd.yielded = .event (.registerWrite r v) → step s = .next u) ∧
      (u.csd.yielded = .event .loopStart → step s = .next u) ∧
      (∀ f, u.csd.yielded = .event (.endOfFrame f) → step s = .next { u with
        active := .idle, ret := .done
        seq := { u.seq with budget := f * (s.params.rate / s.params.frameHz), mode := .waiting } }) ∧
      (u.csd.yielded = .event .endOfStream → s.seq.haveBuf = true → 0 < s.seq.cursor → step s = .next { u with
        active := .idle, ret := .done, submitted := s.submitted ++ [s.pcm], pcm := PcmBuffer.empty
        seq := { u.seq with mode := .ending } }) ∧
      (u.csd.yielded = .event .endOfStream → ¬(s.seq.haveBuf = true ∧ 0 < s.seq.cursor) → step s = .next { u with
        active := .idle, ret := .done, seq := { u.seq with mode := .ending } }) ∧
      (∀ c o f, u.csd.yielded = .fault c o f → step s = .next { u with
        active := .idle, ret := .done
        pcm := if s.seq.haveBuf = true then PcmBuffer.empty else s.pcm
        seq := { mode := .idle, budget := 0, haveBuf := false, cursor := 0, term := .failed c } })

/-- A Tick in CommandProcessing begins to decode while CSD is Running, and out of Running its NextEvent is INVALID_CALL and
stops playback; a Tick in Idle does nothing (R212, R213; R140 by decision D14, log 44; R219 by D41, log 71; the return
`.done`, and that no buffer is current after the drop, are the model's choice, log 15 and 24). -/
def Obligations.TickBeginsByState : Prop :=
  ∀ (s : State) (granted allIdle : Bool) (rest : List HostCall), s.active = .idle →
    s.calls = .tick granted allIdle :: rest →
    (s.seq.mode = .idle → step s = .next { s with calls := rest, ret := .done }) ∧
    (s.seq.mode = .commandProcessing → s.csd.status = .running →
      step s = .next { s with calls := rest, active := .tick }) ∧
    (s.seq.mode = .commandProcessing → s.csd.status ≠ .running → step s = .next { s with
      calls := rest, ret := .done
      pcm := if s.seq.haveBuf = true then PcmBuffer.empty else s.pcm
      seq := { mode := .idle, budget := 0, haveBuf := false, cursor := 0, term := .failed .invalidCall } })

/-- A Tick in Waiting renders min(space, budget) frames at the cursor; with the budget used up it returns to
CommandProcessing, else it submits the buffer it holds, holds none, and goes to BufferWaiting (R215, the spec's decision
D31, log 61; the return `.done` and that no buffer is current after the submit are the model's choice, log 15 and 24). -/
def Obligations.WaitingRendersWhatFits : Prop :=
  ∀ (s t : State) (granted allIdle : Bool) (rest : List HostCall), s.active = .idle →
    s.calls = .tick granted allIdle :: rest → s.seq.mode = .waiting →
    let space := if s.seq.haveBuf = true then s.params.block - s.seq.cursor else 0
    let n := min space s.seq.budget
    render n s.seq.cursor { s with calls := rest } = .next t →
    (s.seq.budget ≤ space → step s = .next { t with
      ret := .done, seq := { s.seq with cursor := s.seq.cursor + n, budget := 0, mode := .commandProcessing } }) ∧
    (space < s.seq.budget → s.seq.haveBuf = true → step s = .next { t with
      ret := .done, submitted := s.submitted ++ [t.pcm], pcm := PcmBuffer.empty
      seq := { s.seq with
        cursor := s.seq.cursor + n, budget := s.seq.budget - n, haveBuf := false, mode := .bufferWaiting } }) ∧
    (space < s.seq.budget → s.seq.haveBuf = false → step s = .next { t with
      ret := .done
      seq := { s.seq with cursor := s.seq.cursor + n, budget := s.seq.budget - n, mode := .bufferWaiting } })

/-- A Tick in BufferWaiting takes a granted buffer, zero-filled, and goes to Waiting, else stays (R216); a Tick in Ending
goes to Idle with Completed when the sink has drained, else stays (R217, the spec's decision D31, log 61; the return `.done`,
that the grant replaces a buffer the caller had lent, and that no buffer is current after the drop, are the model's
choice, log 15 and 24). -/
def Obligations.SinkAnswersMovePlayback : Prop :=
  ∀ (s : State) (granted allIdle : Bool) (rest : List HostCall), s.active = .idle →
    s.calls = .tick granted allIdle :: rest →
    (s.seq.mode = .bufferWaiting → granted = true → step s = .next { s with
      calls := rest, ret := .done
      pcm := { slots := if s.params.stereo = true then 2 * s.params.block else s.params.block, cells := [] }
      seq := { s.seq with haveBuf := true, cursor := 0, mode := .waiting } }) ∧
    (s.seq.mode = .bufferWaiting → granted = false → step s = .next { s with calls := rest, ret := .done }) ∧
    (s.seq.mode = .ending → allIdle = true → step s = .next { s with
      calls := rest, ret := .done
      pcm := if s.seq.haveBuf = true then PcmBuffer.empty else s.pcm
      seq := { mode := .idle, budget := 0, haveBuf := false, cursor := 0, term := .completed } }) ∧
    (s.seq.mode = .ending → allIdle = false → step s = .next { s with calls := rest, ret := .done })
end

