-- ==== Sys2Proof/Laws/State.lean ====
section
/-! SUPPORT. What every update of the state does to every field, true by rfl. -/

namespace Sys2Proof.Machine

@[simp] theorem emit_params (e : Event) (s : State) : (emit e s).params = s.params := rfl
@[simp] theorem emit_stream (e : Event) (s : State) : (emit e s).stream = s.stream := rfl
@[simp] theorem emit_len (e : Event) (s : State) : (emit e s).len = s.len := rfl
@[simp] theorem emit_rf (e : Event) (s : State) : (emit e s).rf = s.rf := rfl
@[simp] theorem emit_csd (e : Event) (s : State) : (emit e s).csd = { s.csd with yielded := .event e } := rfl
@[simp] theorem emit_syn (e : Event) (s : State) : (emit e s).syn = s.syn := rfl
@[simp] theorem emit_seq (e : Event) (s : State) : (emit e s).seq = s.seq := rfl
@[simp] theorem emit_pcm (e : Event) (s : State) : (emit e s).pcm = s.pcm := rfl
@[simp] theorem emit_active (e : Event) (s : State) : (emit e s).active = s.active := rfl
@[simp] theorem emit_ret (e : Event) (s : State) : (emit e s).ret = s.ret := rfl
@[simp] theorem emit_calls (e : Event) (s : State) : (emit e s).calls = s.calls := rfl
@[simp] theorem emit_submitted (e : Event) (s : State) : (emit e s).submitted = s.submitted := rfl

@[simp] theorem yieldNothing_params (s : State) : (yieldNothing s).params = s.params := rfl
@[simp] theorem yieldNothing_stream (s : State) : (yieldNothing s).stream = s.stream := rfl
@[simp] theorem yieldNothing_len (s : State) : (yieldNothing s).len = s.len := rfl
@[simp] theorem yieldNothing_rf (s : State) : (yieldNothing s).rf = s.rf := rfl
@[simp] theorem yieldNothing_csd (s : State) : (yieldNothing s).csd = { s.csd with yielded := .nothing } := rfl
@[simp] theorem yieldNothing_syn (s : State) : (yieldNothing s).syn = s.syn := rfl
@[simp] theorem yieldNothing_seq (s : State) : (yieldNothing s).seq = s.seq := rfl
@[simp] theorem yieldNothing_pcm (s : State) : (yieldNothing s).pcm = s.pcm := rfl
@[simp] theorem yieldNothing_active (s : State) : (yieldNothing s).active = s.active := rfl
@[simp] theorem yieldNothing_ret (s : State) : (yieldNothing s).ret = s.ret := rfl
@[simp] theorem yieldNothing_calls (s : State) : (yieldNothing s).calls = s.calls := rfl
@[simp] theorem yieldNothing_submitted (s : State) : (yieldNothing s).submitted = s.submitted := rfl

@[simp] theorem raiseFault_params (c : FaultCode) (o : Nat) (f : Option Byte) (s : State) :
    (raiseFault c o f s).params = s.params := rfl
@[simp] theorem raiseFault_stream (c : FaultCode) (o : Nat) (f : Option Byte) (s : State) :
    (raiseFault c o f s).stream = s.stream := rfl
@[simp] theorem raiseFault_len (c : FaultCode) (o : Nat) (f : Option Byte) (s : State) :
    (raiseFault c o f s).len = s.len := rfl
@[simp] theorem raiseFault_rf (c : FaultCode) (o : Nat) (f : Option Byte) (s : State) :
    (raiseFault c o f s).rf = s.rf := rfl
@[simp] theorem raiseFault_csd (c : FaultCode) (o : Nat) (f : Option Byte) (s : State) :
    (raiseFault c o f s).csd = { s.csd with status := .faulted c o f, yielded := .fault c o f } := rfl
@[simp] theorem raiseFault_syn (c : FaultCode) (o : Nat) (f : Option Byte) (s : State) :
    (raiseFault c o f s).syn = s.syn := rfl
@[simp] theorem raiseFault_seq (c : FaultCode) (o : Nat) (f : Option Byte) (s : State) :
    (raiseFault c o f s).seq = s.seq := rfl
@[simp] theorem raiseFault_pcm (c : FaultCode) (o : Nat) (f : Option Byte) (s : State) :
    (raiseFault c o f s).pcm = s.pcm := rfl
@[simp] theorem raiseFault_active (c : FaultCode) (o : Nat) (f : Option Byte) (s : State) :
    (raiseFault c o f s).active = s.active := rfl
@[simp] theorem raiseFault_ret (c : FaultCode) (o : Nat) (f : Option Byte) (s : State) :
    (raiseFault c o f s).ret = s.ret := rfl
@[simp] theorem raiseFault_calls (c : FaultCode) (o : Nat) (f : Option Byte) (s : State) :
    (raiseFault c o f s).calls = s.calls := rfl
@[simp] theorem raiseFault_submitted (c : FaultCode) (o : Nat) (f : Option Byte) (s : State) :
    (raiseFault c o f s).submitted = s.submitted := rfl

@[simp] theorem setLatched_params (r : Reg) (s : State) : (setLatched r s).params = s.params := rfl
@[simp] theorem setLatched_stream (r : Reg) (s : State) : (setLatched r s).stream = s.stream := rfl
@[simp] theorem setLatched_len (r : Reg) (s : State) : (setLatched r s).len = s.len := rfl
@[simp] theorem setLatched_rf (r : Reg) (s : State) : (setLatched r s).rf = s.rf := rfl
@[simp] theorem setLatched_csd (r : Reg) (s : State) : (setLatched r s).csd = { s.csd with latched := some r } := rfl
@[simp] theorem setLatched_syn (r : Reg) (s : State) : (setLatched r s).syn = s.syn := rfl
@[simp] theorem setLatched_seq (r : Reg) (s : State) : (setLatched r s).seq = s.seq := rfl
@[simp] theorem setLatched_pcm (r : Reg) (s : State) : (setLatched r s).pcm = s.pcm := rfl
@[simp] theorem setLatched_active (r : Reg) (s : State) : (setLatched r s).active = s.active := rfl
@[simp] theorem setLatched_ret (r : Reg) (s : State) : (setLatched r s).ret = s.ret := rfl
@[simp] theorem setLatched_calls (r : Reg) (s : State) : (setLatched r s).calls = s.calls := rfl
@[simp] theorem setLatched_submitted (r : Reg) (s : State) : (setLatched r s).submitted = s.submitted := rfl

@[simp] theorem enterRegion_params (off len : Nat) (s : State) : (enterRegion off len s).params = s.params := rfl
@[simp] theorem enterRegion_stream (off len : Nat) (s : State) : (enterRegion off len s).stream = s.stream := rfl
@[simp] theorem enterRegion_len (off len : Nat) (s : State) : (enterRegion off len s).len = s.len := rfl
@[simp] theorem enterRegion_rf (off len : Nat) (s : State) : (enterRegion off len s).rf = s.rf := rfl
@[simp] theorem enterRegion_csd (off len : Nat) (s : State) : (enterRegion off len s).csd = 
    { s.csd with resumePos := s.csd.pos, resumeRem := s.csd.rem, resumeValid := true, pos := off, rem := len } := rfl
@[simp] theorem enterRegion_syn (off len : Nat) (s : State) : (enterRegion off len s).syn = s.syn := rfl
@[simp] theorem enterRegion_seq (off len : Nat) (s : State) : (enterRegion off len s).seq = s.seq := rfl
@[simp] theorem enterRegion_pcm (off len : Nat) (s : State) : (enterRegion off len s).pcm = s.pcm := rfl
@[simp] theorem enterRegion_active (off len : Nat) (s : State) : (enterRegion off len s).active = s.active := rfl
@[simp] theorem enterRegion_ret (off len : Nat) (s : State) : (enterRegion off len s).ret = s.ret := rfl
@[simp] theorem enterRegion_calls (off len : Nat) (s : State) : (enterRegion off len s).calls = s.calls := rfl
@[simp] theorem enterRegion_submitted (off len : Nat) (s : State) :
    (enterRegion off len s).submitted = s.submitted := rfl

@[simp] theorem captureLoop_params (s : State) : (captureLoop s).params = s.params := rfl
@[simp] theorem captureLoop_stream (s : State) : (captureLoop s).stream = s.stream := rfl
@[simp] theorem captureLoop_len (s : State) : (captureLoop s).len = s.len := rfl
@[simp] theorem captureLoop_rf (s : State) : (captureLoop s).rf = s.rf := rfl
@[simp] theorem captureLoop_csd (s : State) :
    (captureLoop s).csd = { s.csd with loopPos := s.csd.pos, loopRem := s.csd.rem, loopValid := true } := rfl
@[simp] theorem captureLoop_syn (s : State) : (captureLoop s).syn = s.syn := rfl
@[simp] theorem captureLoop_seq (s : State) : (captureLoop s).seq = s.seq := rfl
@[simp] theorem captureLoop_pcm (s : State) : (captureLoop s).pcm = s.pcm := rfl
@[simp] theorem captureLoop_active (s : State) : (captureLoop s).active = s.active := rfl
@[simp] theorem captureLoop_ret (s : State) : (captureLoop s).ret = s.ret := rfl
@[simp] theorem captureLoop_calls (s : State) : (captureLoop s).calls = s.calls := rfl
@[simp] theorem captureLoop_submitted (s : State) : (captureLoop s).submitted = s.submitted := rfl

@[simp] theorem jumpLoop_params (s : State) : (jumpLoop s).params = s.params := rfl
@[simp] theorem jumpLoop_stream (s : State) : (jumpLoop s).stream = s.stream := rfl
@[simp] theorem jumpLoop_len (s : State) : (jumpLoop s).len = s.len := rfl
@[simp] theorem jumpLoop_rf (s : State) : (jumpLoop s).rf = s.rf := rfl
@[simp] theorem jumpLoop_csd (s : State) :
    (jumpLoop s).csd = { s.csd with pos := s.csd.loopPos, rem := s.csd.loopRem } := rfl
@[simp] theorem jumpLoop_syn (s : State) : (jumpLoop s).syn = s.syn := rfl
@[simp] theorem jumpLoop_seq (s : State) : (jumpLoop s).seq = s.seq := rfl
@[simp] theorem jumpLoop_pcm (s : State) : (jumpLoop s).pcm = s.pcm := rfl
@[simp] theorem jumpLoop_active (s : State) : (jumpLoop s).active = s.active := rfl
@[simp] theorem jumpLoop_ret (s : State) : (jumpLoop s).ret = s.ret := rfl
@[simp] theorem jumpLoop_calls (s : State) : (jumpLoop s).calls = s.calls := rfl
@[simp] theorem jumpLoop_submitted (s : State) : (jumpLoop s).submitted = s.submitted := rfl

@[simp] theorem setEnded_params (s : State) : (setEnded s).params = s.params := rfl
@[simp] theorem setEnded_stream (s : State) : (setEnded s).stream = s.stream := rfl
@[simp] theorem setEnded_len (s : State) : (setEnded s).len = s.len := rfl
@[simp] theorem setEnded_rf (s : State) : (setEnded s).rf = s.rf := rfl
@[simp] theorem setEnded_csd (s : State) : (setEnded s).csd = { s.csd with status := .ended } := rfl
@[simp] theorem setEnded_syn (s : State) : (setEnded s).syn = s.syn := rfl
@[simp] theorem setEnded_seq (s : State) : (setEnded s).seq = s.seq := rfl
@[simp] theorem setEnded_pcm (s : State) : (setEnded s).pcm = s.pcm := rfl
@[simp] theorem setEnded_active (s : State) : (setEnded s).active = s.active := rfl
@[simp] theorem setEnded_ret (s : State) : (setEnded s).ret = s.ret := rfl
@[simp] theorem setEnded_calls (s : State) : (setEnded s).calls = s.calls := rfl
@[simp] theorem setEnded_submitted (s : State) : (setEnded s).submitted = s.submitted := rfl

@[simp] theorem advanceFrames_params (f : Nat) (s : State) : (advanceFrames f s).params = s.params := rfl
@[simp] theorem advanceFrames_stream (f : Nat) (s : State) : (advanceFrames f s).stream = s.stream := rfl
@[simp] theorem advanceFrames_len (f : Nat) (s : State) : (advanceFrames f s).len = s.len := rfl
@[simp] theorem advanceFrames_rf (f : Nat) (s : State) : (advanceFrames f s).rf = s.rf := rfl
@[simp] theorem advanceFrames_csd (f : Nat) (s : State) :
    (advanceFrames f s).csd = { s.csd with fc := (s.csd.fc + f) % 2 ^ s.params.fcw } := rfl
@[simp] theorem advanceFrames_syn (f : Nat) (s : State) : (advanceFrames f s).syn = s.syn := rfl
@[simp] theorem advanceFrames_seq (f : Nat) (s : State) : (advanceFrames f s).seq = s.seq := rfl
@[simp] theorem advanceFrames_pcm (f : Nat) (s : State) : (advanceFrames f s).pcm = s.pcm := rfl
@[simp] theorem advanceFrames_active (f : Nat) (s : State) : (advanceFrames f s).active = s.active := rfl
@[simp] theorem advanceFrames_ret (f : Nat) (s : State) : (advanceFrames f s).ret = s.ret := rfl
@[simp] theorem advanceFrames_calls (f : Nat) (s : State) : (advanceFrames f s).calls = s.calls := rfl
@[simp] theorem advanceFrames_submitted (f : Nat) (s : State) : (advanceFrames f s).submitted = s.submitted := rfl

@[simp] theorem markCommand_params (s : State) : (markCommand s).params = s.params := rfl
@[simp] theorem markCommand_stream (s : State) : (markCommand s).stream = s.stream := rfl
@[simp] theorem markCommand_len (s : State) : (markCommand s).len = s.len := rfl
@[simp] theorem markCommand_rf (s : State) : (markCommand s).rf = s.rf := rfl
@[simp] theorem markCommand_csd (s : State) :
    (markCommand s).csd = { s.csd with cmdAt := (restoreRegion s).csd.pos } := rfl
@[simp] theorem markCommand_syn (s : State) : (markCommand s).syn = s.syn := rfl
@[simp] theorem markCommand_seq (s : State) : (markCommand s).seq = s.seq := rfl
@[simp] theorem markCommand_pcm (s : State) : (markCommand s).pcm = s.pcm := rfl
@[simp] theorem markCommand_active (s : State) : (markCommand s).active = s.active := rfl
@[simp] theorem markCommand_ret (s : State) : (markCommand s).ret = s.ret := rfl
@[simp] theorem markCommand_calls (s : State) : (markCommand s).calls = s.calls := rfl
@[simp] theorem markCommand_submitted (s : State) : (markCommand s).submitted = s.submitted := rfl

@[simp] theorem writeAndReport_params (r : Reg) (v : BitVec 10) (s : State) :
    (writeAndReport r v s).params = s.params := rfl
@[simp] theorem writeAndReport_stream (r : Reg) (v : BitVec 10) (s : State) :
    (writeAndReport r v s).stream = s.stream := rfl
@[simp] theorem writeAndReport_len (r : Reg) (v : BitVec 10) (s : State) : (writeAndReport r v s).len = s.len := rfl
@[simp] theorem writeAndReport_rf (r : Reg) (v : BitVec 10) (s : State) :
    (writeAndReport r v s).rf = writeReg s.rf v r := rfl
@[simp] theorem writeAndReport_csd (r : Reg) (v : BitVec 10) (s : State) : (writeAndReport r v s).csd = 
    { s.csd with yielded := .event (.registerWrite r (readReg (writeReg s.rf v r) r)) } := rfl
@[simp] theorem writeAndReport_syn (r : Reg) (v : BitVec 10) (s : State) : (writeAndReport r v s).syn = s.syn := rfl
@[simp] theorem writeAndReport_seq (r : Reg) (v : BitVec 10) (s : State) : (writeAndReport r v s).seq = s.seq := rfl
@[simp] theorem writeAndReport_pcm (r : Reg) (v : BitVec 10) (s : State) : (writeAndReport r v s).pcm = s.pcm := rfl
@[simp] theorem writeAndReport_active (r : Reg) (v : BitVec 10) (s : State) :
    (writeAndReport r v s).active = s.active := rfl
@[simp] theorem writeAndReport_ret (r : Reg) (v : BitVec 10) (s : State) : (writeAndReport r v s).ret = s.ret := rfl
@[simp] theorem writeAndReport_calls (r : Reg) (v : BitVec 10) (s : State) :
    (writeAndReport r v s).calls = s.calls := rfl
@[simp] theorem writeAndReport_submitted (r : Reg) (v : BitVec 10) (s : State) :
    (writeAndReport r v s).submitted = s.submitted := rfl

@[simp] theorem reseedOnNctrl_params (s : State) : (reseedOnNctrl s).params = s.params := rfl
@[simp] theorem reseedOnNctrl_stream (s : State) : (reseedOnNctrl s).stream = s.stream := rfl
@[simp] theorem reseedOnNctrl_len (s : State) : (reseedOnNctrl s).len = s.len := rfl
@[simp] theorem reseedOnNctrl_rf (s : State) : (reseedOnNctrl s).rf = s.rf := rfl
@[simp] theorem reseedOnNctrl_csd (s : State) : (reseedOnNctrl s).csd = s.csd := rfl
@[simp] theorem reseedOnNctrl_syn (s : State) : (reseedOnNctrl s).syn = 
    { s.syn with lfsr := if s.params.lfsrResetOnNctrl then s.params.lfsrSeed else s.syn.lfsr } := rfl
@[simp] theorem reseedOnNctrl_seq (s : State) : (reseedOnNctrl s).seq = s.seq := rfl
@[simp] theorem reseedOnNctrl_pcm (s : State) : (reseedOnNctrl s).pcm = s.pcm := rfl
@[simp] theorem reseedOnNctrl_active (s : State) : (reseedOnNctrl s).active = s.active := rfl
@[simp] theorem reseedOnNctrl_ret (s : State) : (reseedOnNctrl s).ret = s.ret := rfl
@[simp] theorem reseedOnNctrl_calls (s : State) : (reseedOnNctrl s).calls = s.calls := rfl
@[simp] theorem reseedOnNctrl_submitted (s : State) : (reseedOnNctrl s).submitted = s.submitted := rfl

@[simp] theorem finish_params (r : Return) (s : State) : (finish r s).params = s.params := rfl
@[simp] theorem finish_stream (r : Return) (s : State) : (finish r s).stream = s.stream := rfl
@[simp] theorem finish_len (r : Return) (s : State) : (finish r s).len = s.len := rfl
@[simp] theorem finish_rf (r : Return) (s : State) : (finish r s).rf = s.rf := rfl
@[simp] theorem finish_csd (r : Return) (s : State) : (finish r s).csd = s.csd := rfl
@[simp] theorem finish_syn (r : Return) (s : State) : (finish r s).syn = s.syn := rfl
@[simp] theorem finish_seq (r : Return) (s : State) : (finish r s).seq = s.seq := rfl
@[simp] theorem finish_pcm (r : Return) (s : State) : (finish r s).pcm = s.pcm := rfl
@[simp] theorem finish_active (r : Return) (s : State) : (finish r s).active = .idle := rfl
@[simp] theorem finish_ret (r : Return) (s : State) : (finish r s).ret = r := rfl
@[simp] theorem finish_calls (r : Return) (s : State) : (finish r s).calls = s.calls := rfl
@[simp] theorem finish_submitted (r : Return) (s : State) : (finish r s).submitted = s.submitted := rfl

@[simp] theorem submitBuffer_params (s : State) : (submitBuffer s).params = s.params := rfl
@[simp] theorem submitBuffer_stream (s : State) : (submitBuffer s).stream = s.stream := rfl
@[simp] theorem submitBuffer_len (s : State) : (submitBuffer s).len = s.len := rfl
@[simp] theorem submitBuffer_rf (s : State) : (submitBuffer s).rf = s.rf := rfl
@[simp] theorem submitBuffer_csd (s : State) : (submitBuffer s).csd = s.csd := rfl
@[simp] theorem submitBuffer_syn (s : State) : (submitBuffer s).syn = s.syn := rfl
@[simp] theorem submitBuffer_seq (s : State) : (submitBuffer s).seq = s.seq := rfl
@[simp] theorem submitBuffer_pcm (s : State) : (submitBuffer s).pcm = .empty := rfl
@[simp] theorem submitBuffer_active (s : State) : (submitBuffer s).active = s.active := rfl
@[simp] theorem submitBuffer_ret (s : State) : (submitBuffer s).ret = s.ret := rfl
@[simp] theorem submitBuffer_calls (s : State) : (submitBuffer s).calls = s.calls := rfl
@[simp] theorem submitBuffer_submitted (s : State) : (submitBuffer s).submitted = s.submitted ++ [s.pcm] := rfl

@[simp] theorem dropBuffer_params (s : State) : (dropBuffer s).params = s.params := rfl
@[simp] theorem dropBuffer_stream (s : State) : (dropBuffer s).stream = s.stream := rfl
@[simp] theorem dropBuffer_len (s : State) : (dropBuffer s).len = s.len := rfl
@[simp] theorem dropBuffer_rf (s : State) : (dropBuffer s).rf = s.rf := rfl
@[simp] theorem dropBuffer_csd (s : State) : (dropBuffer s).csd = s.csd := rfl
@[simp] theorem dropBuffer_syn (s : State) : (dropBuffer s).syn = s.syn := rfl
@[simp] theorem dropBuffer_seq (s : State) :
    (dropBuffer s).seq = { s.seq with haveBuf := false, cursor := 0, budget := 0 } := rfl
@[simp] theorem dropBuffer_pcm (s : State) : (dropBuffer s).pcm = if s.seq.haveBuf then .empty else s.pcm := rfl
@[simp] theorem dropBuffer_active (s : State) : (dropBuffer s).active = s.active := rfl
@[simp] theorem dropBuffer_ret (s : State) : (dropBuffer s).ret = s.ret := rfl
@[simp] theorem dropBuffer_calls (s : State) : (dropBuffer s).calls = s.calls := rfl
@[simp] theorem dropBuffer_submitted (s : State) : (dropBuffer s).submitted = s.submitted := rfl

@[simp] theorem stopPlayback_params (t : Terminal) (s : State) : (stopPlayback t s).params = s.params := rfl
@[simp] theorem stopPlayback_stream (t : Terminal) (s : State) : (stopPlayback t s).stream = s.stream := rfl
@[simp] theorem stopPlayback_len (t : Terminal) (s : State) : (stopPlayback t s).len = s.len := rfl
@[simp] theorem stopPlayback_rf (t : Terminal) (s : State) : (stopPlayback t s).rf = s.rf := rfl
@[simp] theorem stopPlayback_csd (t : Terminal) (s : State) : (stopPlayback t s).csd = s.csd := rfl
@[simp] theorem stopPlayback_syn (t : Terminal) (s : State) : (stopPlayback t s).syn = s.syn := rfl
@[simp] theorem stopPlayback_seq (t : Terminal) (s : State) : (stopPlayback t s).seq = 
    { mode := .idle, budget := 0, haveBuf := false, cursor := 0, term := t } := rfl
@[simp] theorem stopPlayback_pcm (t : Terminal) (s : State) :
    (stopPlayback t s).pcm = if s.seq.haveBuf then .empty else s.pcm := rfl
@[simp] theorem stopPlayback_active (t : Terminal) (s : State) : (stopPlayback t s).active = s.active := rfl
@[simp] theorem stopPlayback_ret (t : Terminal) (s : State) : (stopPlayback t s).ret = s.ret := rfl
@[simp] theorem stopPlayback_calls (t : Terminal) (s : State) : (stopPlayback t s).calls = s.calls := rfl
@[simp] theorem stopPlayback_submitted (t : Terminal) (s : State) : (stopPlayback t s).submitted = s.submitted := rfl

@[simp] theorem resetCore_params (p : Params) (bytes : List Byte) (s : State) :
    (resetCore p bytes s).params = p := rfl
@[simp] theorem resetCore_stream (p : Params) (bytes : List Byte) (s : State) :
    (resetCore p bytes s).stream = Memory.ofBytes bytes := rfl
@[simp] theorem resetCore_len (p : Params) (bytes : List Byte) (s : State) :
    (resetCore p bytes s).len = bytes.length := rfl
@[simp] theorem resetCore_rf (p : Params) (bytes : List Byte) (s : State) : (resetCore p bytes s).rf = .reset := rfl
@[simp] theorem resetCore_csd (p : Params) (bytes : List Byte) (s : State) :
    (resetCore p bytes s).csd = .reset bytes.length := rfl
@[simp] theorem resetCore_syn (p : Params) (bytes : List Byte) (s : State) :
    (resetCore p bytes s).syn = .reset p.lfsrSeed := rfl
@[simp] theorem resetCore_seq (p : Params) (bytes : List Byte) (s : State) : (resetCore p bytes s).seq = .reset := rfl
@[simp] theorem resetCore_pcm (p : Params) (bytes : List Byte) (s : State) : (resetCore p bytes s).pcm = .empty := rfl
@[simp] theorem resetCore_active (p : Params) (bytes : List Byte) (s : State) :
    (resetCore p bytes s).active = s.active := rfl
@[simp] theorem resetCore_ret (p : Params) (bytes : List Byte) (s : State) : (resetCore p bytes s).ret = s.ret := rfl
@[simp] theorem resetCore_calls (p : Params) (bytes : List Byte) (s : State) :
    (resetCore p bytes s).calls = s.calls := rfl
@[simp] theorem resetCore_submitted (p : Params) (bytes : List Byte) (s : State) :
    (resetCore p bytes s).submitted = s.submitted := rfl

end Sys2Proof.Machine
end

