-- ==== Sys2Proof/Laws/Fetch.lean ====
section
/-! SUPPORT. What Fetch and the command fetch can do, said once (42_back_reference R151, R154). -/

namespace Sys2Proof.Machine

/-- The region restore happens exactly when the region is exhausted and a resume context is held. -/
theorem restoreRegion_cases (s : State) :
    (s.csd.rem = 0 ∧ s.csd.resumeValid = true ∧ restoreRegion s =
      { s with csd := { s.csd with pos := s.csd.resumePos, rem := s.csd.resumeRem, resumeValid := false } }) ∨
    (¬(s.csd.rem = 0 ∧ s.csd.resumeValid = true) ∧ restoreRegion s = s) := by
  unfold restoreRegion
  split
  · next h => exact .inl ⟨h.1, h.2, rfl⟩
  · next h => exact .inr ⟨h, rfl⟩

/-- The state after the restore, in one record: where the next Fetch reads, and how many bytes it may. -/
theorem restoreRegion_eq (s : State) :
    restoreRegion s = { s with csd := { s.csd with
      pos := if (decide (s.csd.rem = 0) && s.csd.resumeValid) = true then s.csd.resumePos else s.csd.pos
      rem := if (decide (s.csd.rem = 0) && s.csd.resumeValid) = true then s.csd.resumeRem else s.csd.rem
      resumeValid :=
        if (decide (s.csd.rem = 0) && s.csd.resumeValid) = true then false else s.csd.resumeValid } } := by
  unfold restoreRegion
  by_cases h : s.csd.rem = 0 ∧ s.csd.resumeValid = true
  · simp [h]
  · have h' : (decide (s.csd.rem = 0) && s.csd.resumeValid) = false := by simpa using h
    simp only [if_neg h, h']
    rfl

/-- Marking the command's offset and restoring the region commute. -/
theorem restoreRegion_markCommand (s : State) :
    restoreRegion (markCommand s) =
      { restoreRegion s with csd := { (restoreRegion s).csd with cmdAt := (restoreRegion s).csd.pos } } := by
  unfold markCommand
  rw [restoreRegion_eq, restoreRegion_eq]

/-- The restore writes the pair and `resume_valid`, nothing else. -/
theorem restoreRegion_frame (s : State) :
    ∃ p r v, restoreRegion s = { s with csd := { s.csd with pos := p, rem := r, resumeValid := v } } := by
  rcases restoreRegion_cases s with ⟨-, -, h⟩ | ⟨-, h⟩
  · exact ⟨_, _, _, h⟩
  · exact ⟨s.csd.pos, s.csd.rem, s.csd.resumeValid, h⟩

/-- A Fetch that raises MS_BOUNDS leaves the state after the restore. -/
theorem fetch_error {s t : State} (h : fetch s = .error t) :
    t = restoreRegion s ∧ (t.csd.rem = 0 ∨ t.len ≤ t.csd.pos) := by
  unfold fetch at h
  simp only at h
  split at h
  · next h0 => cases h; exact ⟨rfl, .inl h0⟩
  · split at h
    · next h1 => cases h; exact ⟨rfl, .inr h1⟩
    · cases h

/-- A Fetch that succeeds reads the byte at the restored position and consumes it. -/
theorem fetch_ok {s t : State} {b : Byte} (h : fetch s = .ok (b, t)) :
    (restoreRegion s).csd.rem ≠ 0 ∧ (restoreRegion s).csd.pos < (restoreRegion s).len ∧
      b = memRead (restoreRegion s).stream (restoreRegion s).csd.pos ∧
      t = { restoreRegion s with csd :=
        { (restoreRegion s).csd with pos := (restoreRegion s).csd.pos + 1, rem := (restoreRegion s).csd.rem - 1 } } := by
  unfold fetch at h
  simp only at h
  split at h
  · cases h
  · next h0 =>
    split at h
    · cases h
    · next h1 => cases h; exact ⟨h0, Nat.lt_of_not_le h1, rfl, rfl⟩

/-- Inside a region with bytes left and inside the buffer, Fetch takes the byte at `pos`. -/
theorem fetch_inside {s : State} (hr : s.csd.rem ≠ 0) (hp : s.csd.pos < s.len) :
    fetch s = .ok (memRead s.stream s.csd.pos,
      { s with csd := { s.csd with pos := s.csd.pos + 1, rem := s.csd.rem - 1 } }) := by
  have h : restoreRegion s = s := by
    unfold restoreRegion
    rw [if_neg (fun h => hr h.1)]
  unfold fetch
  simp only [h, if_neg hr, if_neg (Nat.not_le.mpr hp)]

/-- The Fetch of a command's first byte, where the restored region and the buffer have one. -/
theorem fetch_first {s : State} (hr : (restoreRegion s).csd.rem ≠ 0)
    (hp : (restoreRegion s).csd.pos < (restoreRegion s).len) :
    fetch (markCommand s) = .ok (memRead (restoreRegion s).stream (restoreRegion s).csd.pos,
      { restoreRegion s with csd := { (restoreRegion s).csd with
        cmdAt := (restoreRegion s).csd.pos
        pos := (restoreRegion s).csd.pos + 1
        rem := (restoreRegion s).csd.rem - 1 } }) := by
  unfold fetch
  rw [restoreRegion_markCommand]
  simp only [if_neg hr, if_neg (Nat.not_le.mpr hp)]

/-- What a successful command fetch is: one Fetch for a one-byte command, three for a REF. -/
theorem fetchCommand_ok {s t : State} {i : Instr} (h : fetchCommand s = .ok (i, t)) :
    ∃ b s1, fetch (markCommand s) = .ok (b, s1) ∧
      ((commandLength b = 1 ∧ i = decodeCommand b 0 0 ∧ t = s1) ∨
        (commandLength b ≠ 1 ∧ ∃ lo hi s2, fetch s1 = .ok (lo, s2) ∧ fetch s2 = .ok (hi, t) ∧
          i = decodeCommand b lo hi)) := by
  unfold fetchCommand at h
  split at h
  · cases h
  · next b s1 h1 =>
    refine ⟨b, s1, h1, ?_⟩
    split at h
    · next hl => cases h; exact .inl ⟨hl, rfl, rfl⟩
    · next hl =>
      split at h
      · cases h
      · next lo s2 h2 =>
        split at h
        · cases h
        · next hi s3 h3 => cases h; exact .inr ⟨hl, lo, hi, s2, h2, h3, rfl⟩

/-- What a failed command fetch is: one of its Fetches failed. -/
theorem fetchCommand_error {s t : State} (h : fetchCommand s = .error t) :
    fetch (markCommand s) = .error t ∨
      ∃ b s1, fetch (markCommand s) = .ok (b, s1) ∧
        (fetch s1 = .error t ∨ ∃ lo s2, fetch s1 = .ok (lo, s2) ∧ fetch s2 = .error t) := by
  unfold fetchCommand at h
  split at h
  · next s' h1 => cases h; exact .inl h1
  · next b s1 h1 =>
    refine .inr ⟨b, s1, h1, ?_⟩
    split at h
    · cases h
    · split at h
      · next s' h2 => cases h; exact .inl h2
      · next lo s2 h2 =>
        split at h
        · next s' h3 => cases h; exact .inr ⟨lo, s2, h2, h3⟩
        · cases h

/-- `t` differs from `s` at most in the pair, `resume_valid` and the command's offset. -/
def FetchFrame (s t : State) : Prop :=
  ∃ p r v c, t = { s with csd := { s.csd with pos := p, rem := r, resumeValid := v, cmdAt := c } }

theorem FetchFrame.trans {s t u : State} (h : FetchFrame s t) (h' : FetchFrame t u) : FetchFrame s u := by
  obtain ⟨p, r, v, c, rfl⟩ := h
  obtain ⟨p', r', v', c', rfl⟩ := h'
  exact ⟨p', r', v', c', rfl⟩

theorem markCommand_frame (s : State) : FetchFrame s (markCommand s) :=
  ⟨s.csd.pos, s.csd.rem, s.csd.resumeValid, _, rfl⟩

theorem fetch_ok_frame {s t : State} {b : Byte} (h : fetch s = .ok (b, t)) : FetchFrame s t := by
  obtain ⟨-, -, -, rfl⟩ := fetch_ok h
  obtain ⟨p, r, v, e⟩ := restoreRegion_frame s
  exact ⟨p + 1, r - 1, v, s.csd.cmdAt, by rw [e]⟩

theorem fetch_error_frame {s t : State} (h : fetch s = .error t) : FetchFrame s t := by
  obtain ⟨rfl, -⟩ := fetch_error h
  obtain ⟨p, r, v, e⟩ := restoreRegion_frame s
  exact ⟨p, r, v, s.csd.cmdAt, by rw [e]⟩

/-- A command fetch writes only the pair, `resume_valid` and the command's offset. -/
theorem fetchCommand_ok_frame {s t : State} {i : Instr} (h : fetchCommand s = .ok (i, t)) : FetchFrame s t := by
  obtain ⟨b, s1, h1, ⟨-, -, rfl⟩ | ⟨-, lo, hi, s2, h2, h3, -⟩⟩ := fetchCommand_ok h
  · exact (markCommand_frame s).trans (fetch_ok_frame h1)
  · exact (((markCommand_frame s).trans (fetch_ok_frame h1)).trans (fetch_ok_frame h2)).trans (fetch_ok_frame h3)

theorem fetchCommand_error_frame {s t : State} (h : fetchCommand s = .error t) : FetchFrame s t := by
  rcases fetchCommand_error h with h1 | ⟨b, s1, h1, h2 | ⟨lo, s2, h2, h3⟩⟩
  · exact (markCommand_frame s).trans (fetch_error_frame h1)
  · exact ((markCommand_frame s).trans (fetch_ok_frame h1)).trans (fetch_error_frame h2)
  · exact (((markCommand_frame s).trans (fetch_ok_frame h1)).trans (fetch_ok_frame h2)).trans (fetch_error_frame h3)

/-- What every Fetch keeps, a command fetch keeps: `P` survives the mark, the restore and the consumption of a byte. -/
theorem fetchCommand_keeps {P : State → Prop} (mark : ∀ s, P s → P (markCommand s))
    (restore : ∀ s, P s → P (restoreRegion s))
    (consume : ∀ s, P s → s.csd.rem ≠ 0 → s.csd.pos < s.len →
      P { s with csd := { s.csd with pos := s.csd.pos + 1, rem := s.csd.rem - 1 } })
    {s : State} (hs : P s) :
    (∀ i t, fetchCommand s = .ok (i, t) → P t) ∧ ∀ t, fetchCommand s = .error t → P t := by
  have ok : ∀ s t b, P s → fetch s = .ok (b, t) → P t := by
    intro s t b hs h
    obtain ⟨hr, hp, -, rfl⟩ := fetch_ok h
    exact consume _ (restore _ hs) hr hp
  have error : ∀ s t, P s → fetch s = .error t → P t := by
    intro s t hs h
    obtain ⟨rfl, -⟩ := fetch_error h
    exact restore _ hs
  constructor
  · intro i t h
    obtain ⟨b, s1, h1, ⟨-, -, rfl⟩ | ⟨-, lo, hi, s2, h2, h3, -⟩⟩ := fetchCommand_ok h
    · exact ok _ _ _ (mark _ hs) h1
    · exact ok _ _ _ (ok _ _ _ (ok _ _ _ (mark _ hs) h1) h2) h3
  · intro t h
    rcases fetchCommand_error h with h | ⟨b, s1, h1, h2 | ⟨lo, s2, h2, h3⟩⟩
    · exact error _ _ (mark _ hs) h
    · exact error _ _ (ok _ _ _ (mark _ hs) h1) h2
    · exact error _ _ (ok _ _ _ (ok _ _ _ (mark _ hs) h1) h2) h3

end Sys2Proof.Machine
end

