-- ==== Sys2Proof/Laws/Memory.lean ====
section
/-! SUPPORT. The laws of the sparse arrays behind both address spaces: read after write, and that every operation keeps
the canonical form. -/

namespace Sys2Proof.Machine

variable {w : Nat}

@[simp] theorem Cells.read_nil (a : Nat) : Cells.read ([] : Cells w) a = unlistedCell w := rfl

theorem Cells.read_cons (b : Nat) (v : BitVec w) (m : Cells w) (a : Nat) :
    Cells.read ((b, v) :: m) a = if b = a then v else Cells.read m a := rfl

/-- A lower bound on the indices may be lowered. -/
theorem Cells.wfFrom_mono {lo lo' : Nat} (h : lo' ≤ lo) :
    ∀ {m : Cells w}, Cells.wfFrom lo m = true → Cells.wfFrom lo' m = true
  | [], _ => rfl
  | (a, v) :: m, hm => by
    simp only [Cells.wfFrom, Bool.and_eq_true, decide_eq_true_eq] at hm ⊢
    exact ⟨⟨h.trans hm.1.1, hm.1.2⟩, hm.2⟩

/-- Below its first index a canonical array reads as unlisted. -/
theorem Cells.read_below {lo a : Nat} (h : a < lo) :
    ∀ {m : Cells w}, Cells.wfFrom lo m = true → Cells.read m a = unlistedCell w
  | [], _ => rfl
  | (b, v) :: m, hm => by
    simp only [Cells.wfFrom, Bool.and_eq_true, decide_eq_true_eq] at hm
    rw [Cells.read_cons, if_neg (by omega), Cells.read_below (by omega) hm.2]

/-- A read after a write to the same index gives the value written. -/
theorem Cells.read_write_same (a : Nat) (v : BitVec w) :
    ∀ {m : Cells w} {lo : Nat}, Cells.wfFrom lo m = true → Cells.read (Cells.write m a v) a = v
  | [], _, _ => by
    by_cases hv : v = unlistedCell w <;> simp [Cells.write, hv, Cells.read_cons]
  | (b, u) :: m, lo, hm => by
    have hm' := hm
    simp only [Cells.wfFrom, Bool.and_eq_true, decide_eq_true_eq] at hm
    obtain ⟨-, hrest⟩ := hm
    unfold Cells.write
    split
    · split
      · next hab hv =>
        rw [Cells.read_cons, if_neg (by omega), Cells.read_below (by omega) hrest, hv]
      · simp [Cells.read_cons]
    · split
      · next hab =>
        subst hab
        split
        · next hv => rw [Cells.read_below (by omega) hrest, hv]
        · simp [Cells.read_cons]
      · next hab =>
        rw [Cells.read_cons, if_neg (by omega), Cells.read_write_same a v hrest]

/-- A write leaves every other index alone. -/
theorem Cells.read_write_other {a a' : Nat} (h : a' ≠ a) (v : BitVec w) :
    ∀ m : Cells w, Cells.read (Cells.write m a v) a' = Cells.read m a'
  | [] => by
    by_cases hv : v = unlistedCell w <;> simp [Cells.write, hv, Cells.read_cons, h.symm]
  | (b, u) :: m => by
    have ih := Cells.read_write_other h v m
    unfold Cells.write
    split
    · split <;> simp [Cells.read_cons, h.symm]
    · split
      · next hab =>
        subst hab
        split <;> simp [Cells.read_cons, h.symm]
      · simp [Cells.read_cons, ih]

/-- A write keeps the canonical form. -/
theorem Cells.wfFrom_write {a : Nat} (v : BitVec w) :
    ∀ {m : Cells w} {lo : Nat}, lo ≤ a → Cells.wfFrom lo m = true → Cells.wfFrom lo (Cells.write m a v) = true
  | [], lo, hlo, _ => by
    by_cases hv : v = unlistedCell w <;> simp [Cells.write, Cells.wfFrom, hv, hlo]
  | (b, u) :: m, lo, hlo, hm => by
    have hm' := hm
    simp only [Cells.wfFrom, Bool.and_eq_true, decide_eq_true_eq] at hm
    obtain ⟨⟨hb, hu⟩, hrest⟩ := hm
    unfold Cells.write
    split
    · split
      · exact hm'
      · next hab hv =>
        simp only [Cells.wfFrom, Bool.and_eq_true, decide_eq_true_eq]
        exact ⟨⟨hlo, hv⟩, ⟨by omega, hu⟩, hrest⟩
    · split
      · next hab =>
        split
        · exact Cells.wfFrom_mono (by omega) hrest
        · next hv =>
          simp only [Cells.wfFrom, Bool.and_eq_true, decide_eq_true_eq]
          exact ⟨⟨hlo, hv⟩, hab ▸ hrest⟩
      · next hab =>
        simp only [Cells.wfFrom, Bool.and_eq_true, decide_eq_true_eq]
        exact ⟨⟨hb, hu⟩, Cells.wfFrom_write v (by omega) hrest⟩

theorem Cells.wf_write (m : Cells w) (a : Nat) (v : BitVec w) (h : Cells.wf m = true) :
    Cells.wf (Cells.write m a v) = true := Cells.wfFrom_write v (Nat.zero_le a) h

/-- Writing what an index of a canonical array already reads as changes nothing. -/
theorem Cells.write_read_self {a : Nat} :
    ∀ {m : Cells w} {lo : Nat}, Cells.wfFrom lo m = true → Cells.write m a (Cells.read m a) = m
  | [], _, _ => by simp [Cells.write]
  | (b, u) :: m, lo, hm => by
    simp only [Cells.wfFrom, Bool.and_eq_true, decide_eq_true_eq] at hm
    obtain ⟨⟨-, hu⟩, hrest⟩ := hm
    rw [Cells.read_cons]
    unfold Cells.write
    split
    · next hab =>
      rw [if_neg (by omega : ¬b = a), Cells.read_below (by omega : a < b + 1) hrest]
      simp
    · split
      · next hab => subst hab; simp [hu]
      · next hab => rw [if_neg (by omega : ¬b = a), Cells.write_read_self hrest]

/-- The array of a list is in canonical form. -/
theorem Cells.wfFrom_ofList : ∀ (l : List (BitVec w)) (lo : Nat), Cells.wfFrom lo (Cells.ofList lo l) = true
  | [], _ => rfl
  | v :: l, lo => by
    have ih := Cells.wfFrom_ofList l (lo + 1)
    unfold Cells.ofList
    split
    · exact Cells.wfFrom_mono (Nat.le_succ lo) ih
    · next hv =>
      simp only [Cells.wfFrom, Bool.and_eq_true, decide_eq_true_eq]
      exact ⟨⟨le_rfl, hv⟩, ih⟩

theorem Cells.wf_ofList (l : List (BitVec w)) : Cells.wf (Cells.ofList 0 l) = true := Cells.wfFrom_ofList l 0

theorem Memory.wf_ofBytes (bytes : List Byte) : Memory.wf (Memory.ofBytes bytes) = true := Cells.wf_ofList bytes

/-- The array of a list reads as the list, and as unlisted past its end. -/
theorem Cells.read_ofList :
    ∀ (l : List (BitVec w)) (lo j : Nat), Cells.read (Cells.ofList lo l) (lo + j) = l.getD j (unlistedCell w)
  | [], _, _ => rfl
  | v :: l, lo, 0 => by
    unfold Cells.ofList
    split
    · next hv =>
      simpa [hv] using Cells.read_below (Nat.lt_succ_self lo) (Cells.wfFrom_ofList l (lo + 1))
    · simp [Cells.read_cons]
  | v :: l, lo, j + 1 => by
    have ih := Cells.read_ofList l (lo + 1) j
    have e : lo + (j + 1) = lo + 1 + j := by omega
    unfold Cells.ofList
    split
    · rw [e, ih]; simp
    · rw [Cells.read_cons, if_neg (by omega), e, ih]; simp

/-- `MemRead` of a buffer's offset gives the buffer's byte (20_memory R62). -/
theorem memRead_ofBytes (bytes : List Byte) (a : Nat) : memRead (Memory.ofBytes bytes) a = bytes.getD a 0 := by
  simpa [memRead, Memory.ofBytes, unlistedCell] using Cells.read_ofList bytes 0 a

end Sys2Proof.Machine
end

