-- ==== Sys2Proof/Laws/PerInstr.lean ====
section
/-! SUPPORT. Statements about every command as syntax, one lemma per constructor of Instr. -/

namespace Sys2Proof.Laws

/-- The encoding of a well-formed command has the length its first byte tells (30_encoding R102). -/
def EncodedLength.Statement (i : Instr) : Prop :=
  i.wellFormed = true → (encode i).length = commandLength ((encode i).headD 0)

theorem EncodedLength.latchTone0 (n : BitVec 4) : Statement (.latchTone0 n) := by
  revert n; simp only [Statement]; decide

theorem EncodedLength.latchAtt0 (n : BitVec 4) : Statement (.latchAtt0 n) := by
  revert n; simp only [Statement]; decide

theorem EncodedLength.latchTone1 (n : BitVec 4) : Statement (.latchTone1 n) := by
  revert n; simp only [Statement]; decide

theorem EncodedLength.latchAtt1 (n : BitVec 4) : Statement (.latchAtt1 n) := by
  revert n; simp only [Statement]; decide

theorem EncodedLength.latchTone2 (n : BitVec 4) : Statement (.latchTone2 n) := by
  revert n; simp only [Statement]; decide

theorem EncodedLength.latchAtt2 (n : BitVec 4) : Statement (.latchAtt2 n) := by
  revert n; simp only [Statement]; decide

theorem EncodedLength.latchNctrl (n : BitVec 4) : Statement (.latchNctrl n) := by
  revert n; simp only [Statement]; decide

theorem EncodedLength.latchNatt (n : BitVec 4) : Statement (.latchNatt n) := by
  revert n; simp only [Statement]; decide

theorem EncodedLength.data (d : BitVec 6) : Statement (.data d) := by
  revert d; simp only [Statement]; decide

theorem EncodedLength.endStream : Statement .endStream := by
  simp only [Statement]; decide

theorem EncodedLength.loop : Statement .loop := by
  simp only [Statement]; decide

theorem EncodedLength.rsvd (k : BitVec 3) : Statement (.rsvd k) := by
  revert k; simp only [Statement]; decide

theorem EncodedLength.ref (len : BitVec 6) (off : BitVec 16) : Statement (.ref len off) := by
  have h : ∀ l : BitVec 6, 4 ≤ l.toNat ∧ l.toNat ≤ 51 → commandLength (refByte l) = 3 := by decide
  intro hw
  exact (h len (by simpa [Instr.wellFormed] using hw)).symm

theorem EncodedLength.eof (nnn : BitVec 3) : Statement (.eof nnn) := by
  revert nnn; simp only [Statement]; decide

end Sys2Proof.Laws
end

