-- ==== Sys2Proof/Laws/Registers.lean ====
section
/-! SUPPORT. RF as a file of registers: a read after a write gives the bits the register keeps, and a write leaves the
other registers alone (10_state R25). -/

namespace Sys2Proof.Machine

theorem readReg_writeReg_other {r r' : Reg} (h : r' ≠ r) (rf : RegFile) (v : BitVec 10) :
    readReg (writeReg rf v r) r' = readReg rf r' := by
  cases r <;> cases r' <;> first | rfl | exact absurd rfl h

theorem readReg_writeReg_tone {r : Reg} (h : isTone r = true) (rf : RegFile) (v : BitVec 10) :
    readReg (writeReg rf v r) r = v := by
  cases r <;> first | rfl | cases h

/-- The composed period of a tone register is `16 * d + n` (40_register_commands R129). -/
theorem dataHigh_latchLow_toNat (old : BitVec 10) (n : BitVec 4) (d : BitVec 6) :
    (dataHigh (latchLow old n) d).toNat = 16 * d.toNat + n.toNat := by
  have hn := n.isLt
  simp only [dataHigh, latchLow, BitVec.toNat_append, BitVec.extractLsb'_toNat, Nat.shiftLeft_eq, Nat.shiftRight_zero]
  rw [Nat.or_comm, Nat.mul_comm, Nat.mul_comm (BitVec.toNat _) (2 ^ 4), Nat.or_comm, ← Nat.two_pow_add_eq_or_of_lt hn,
    ← Nat.two_pow_add_eq_or_of_lt (Nat.mod_lt _ (by decide))]
  omega

/-- LATCH replaces the low nibble of a tone register (R122). -/
theorem latchLow_toNat (old : BitVec 10) (n : BitVec 4) : (latchLow old n).toNat = 16 * (old.toNat / 16) + n.toNat := by
  have hn := n.isLt
  have ho := old.isLt
  simp only [latchLow, BitVec.toNat_append, BitVec.extractLsb'_toNat, Nat.shiftLeft_eq, Nat.shiftRight_eq_div_pow]
  rw [Nat.mul_comm, ← Nat.two_pow_add_eq_or_of_lt hn]
  omega

/-- DATA replaces the high six bits of a tone register (R126). -/
theorem dataHigh_toNat (old : BitVec 10) (d : BitVec 6) : (dataHigh old d).toNat = 16 * d.toNat + old.toNat % 16 := by
  simp only [dataHigh, BitVec.toNat_append, BitVec.extractLsb'_toNat, Nat.shiftLeft_eq, Nat.shiftRight_zero]
  rw [Nat.mul_comm, ← Nat.two_pow_add_eq_or_of_lt (Nat.mod_lt _ (by decide))]

end Sys2Proof.Machine
end

