-- ==== Sys2Proof/Laws/Render.lean ====
section
/-! SUPPORT. What PcmAdd, RenderTick and a sequence of results can do, said once (20_memory R70, 43_synthesis R172). -/

namespace Sys2Proof.Machine

@[simp] theorem andThen_next (s : State) (f : State → Result) : andThen (.next s) f = f s := rfl

/-- A sequence answers a next state exactly when its first part does and its second does from there. -/
theorem andThen_eq_next {r : Result} {f : State → Result} {t : State} :
    andThen r f = .next t ↔ ∃ u, r = .next u ∧ f u = .next t := by
  cases r with
  | next u => exact ⟨fun h => ⟨u, rfl, h⟩, fun ⟨_, hu, h⟩ => by cases hu; exact h⟩
  | fault e => exact ⟨fun h => (nomatch h), fun ⟨_, hu, _⟩ => (nomatch hu)⟩
  | refused e => exact ⟨fun h => (nomatch h), fun ⟨_, hu, _⟩ => (nomatch hu)⟩

theorem andThen_assoc (r : Result) (f g : State → Result) :
    andThen (andThen r f) g = andThen r fun s => andThen (f s) g := by
  cases r <;> rfl

/-- A PcmAdd that answers a next state writes the sum into its slot and nothing else (20_memory R70). -/
theorem pcmAdd_next {i : Nat} {v : Int} {s t : State} (h : pcmAdd i v s = .next t) :
    i < s.pcm.slots ∧ -32768 ≤ readSlot s.pcm i + v ∧ readSlot s.pcm i + v ≤ 32767 ∧
      t = { s with pcm :=
        { s.pcm with cells := Cells.write s.pcm.cells i (BitVec.ofInt 16 (readSlot s.pcm i + v)) } } := by
  unfold pcmAdd at h
  split at h
  · next hi =>
    split at h
    · next hr => cases h; exact ⟨hi, hr.1, hr.2, rfl⟩
    · cases h
  · cases h

/-- A RenderTick that answers a next state steps SYN and adds to one slot in mono, to two in stereo. -/
theorem renderTick_next {k : Nat} {s t : State} (h : renderTick k s = .next t) :
    (s.params.stereo = false ∧
      pcmAdd k (monoSample s.params s.rf (synTick s.params s.rf s.syn)) { s with syn := synTick s.params s.rf s.syn } =
        .next t) ∨
    (s.params.stereo = true ∧ ∃ u,
      pcmAdd (2 * k) (leftSample s.params s.rf (synTick s.params s.rf s.syn))
        { s with syn := synTick s.params s.rf s.syn } = .next u ∧
      pcmAdd (2 * k + 1) (rightSample s.params s.rf (synTick s.params s.rf s.syn)) u = .next t) := by
  unfold renderTick at h
  simp only at h
  split at h
  · next hs =>
    obtain ⟨u, h1, h2⟩ := andThen_eq_next.mp h
    exact .inr ⟨hs, u, h1, h2⟩
  · next hs => exact .inl ⟨by simpa using hs, h⟩

theorem render_zero (dst : Nat) (s : State) : render 0 dst s = .next s := rfl

theorem render_succ (n dst : Nat) (s : State) :
    render (n + 1) dst s = andThen (renderTick dst s) (render n (dst + 1)) := rfl

/-- PcmAdd writes the PCM space only and keeps its size. -/
theorem pcmAdd_frame {i : Nat} {v : Int} {s t : State} (h : pcmAdd i v s = .next t) :
    t = { s with pcm := t.pcm } ∧ t.pcm.slots = s.pcm.slots := by
  obtain ⟨-, -, -, rfl⟩ := pcmAdd_next h
  exact ⟨rfl, rfl⟩

/-- PcmAdd keeps the canonical form of the PCM space. -/
theorem pcmAdd_keeps_wf {i : Nat} {v : Int} {s t : State} (h : pcmAdd i v s = .next t)
    (hw : Cells.wf s.pcm.cells = true) : Cells.wf t.pcm.cells = true := by
  obtain ⟨-, -, -, rfl⟩ := pcmAdd_next h
  exact Cells.wf_write _ _ _ hw

/-- A write of a sum that fits 16 bits reads back as the sum, and leaves the other slots alone. -/
theorem readSlot_write {b : PcmBuffer} (hw : Cells.wf b.cells = true) (i : Nat) {v : Int} (hv : -32768 ≤ v ∧ v ≤ 32767)
    (j : Nat) : readSlot { b with cells := Cells.write b.cells i (BitVec.ofInt 16 v) } j =
      if j = i then v else readSlot b j := by
  unfold readSlot
  by_cases e : j = i
  · subst e
    rw [Cells.read_write_same j _ hw, if_pos rfl, BitVec.toInt_ofInt]
    exact Int.bmod_eq_of_le (by omega) (by omega)
  · simp only [if_neg e]
    rw [Cells.read_write_other e]

/-- A RenderTick writes SYN and the PCM space only and keeps the size of the latter. -/
theorem renderTick_frame {k : Nat} {s t : State} (h : renderTick k s = .next t) :
    t = { s with syn := synTick s.params s.rf s.syn, pcm := t.pcm } ∧ t.pcm.slots = s.pcm.slots := by
  rcases renderTick_next h with ⟨-, h⟩ | ⟨-, u, h1, h2⟩
  · obtain ⟨e, e'⟩ := pcmAdd_frame h
    exact ⟨e.trans rfl, e'⟩
  · obtain ⟨e, e'⟩ := pcmAdd_frame h1
    obtain ⟨f, f'⟩ := pcmAdd_frame h2
    exact ⟨by rw [f, e], f'.trans e'⟩

theorem renderTick_keeps_wf {k : Nat} {s t : State} (h : renderTick k s = .next t)
    (hw : Cells.wf s.pcm.cells = true) : Cells.wf t.pcm.cells = true := by
  rcases renderTick_next h with ⟨-, h⟩ | ⟨-, u, h1, h2⟩
  · exact pcmAdd_keeps_wf h hw
  · exact pcmAdd_keeps_wf h2 (pcmAdd_keeps_wf h1 hw)

/-- Of the state Render writes SYN and the PCM space only. -/
theorem render_frame {n dst : Nat} {s t : State} (h : render n dst s = .next t) :
    t = { s with syn := t.syn, pcm := t.pcm } := by
  induction n generalizing dst s with
  | zero => cases h; rfl
  | succ n ih =>
    obtain ⟨u, h1, h2⟩ := andThen_eq_next.mp h
    rw [ih h2, (renderTick_frame h1).1]

theorem render_keeps_slots {n dst : Nat} {s t : State} (h : render n dst s = .next t) : t.pcm.slots = s.pcm.slots := by
  induction n generalizing dst s with
  | zero => cases h; rfl
  | succ n ih =>
    obtain ⟨u, h1, h2⟩ := andThen_eq_next.mp h
    exact (ih h2).trans (renderTick_frame h1).2

theorem render_keeps_wf {n dst : Nat} {s t : State} (h : render n dst s = .next t)
    (hw : Cells.wf s.pcm.cells = true) : Cells.wf t.pcm.cells = true := by
  induction n generalizing dst s with
  | zero => cases h; exact hw
  | succ n ih =>
    obtain ⟨u, h1, h2⟩ := andThen_eq_next.mp h
    exact ih h2 (renderTick_keeps_wf h1 hw)

/-- What PcmAdd adds to each slot (20_memory R70). -/
theorem pcmAdd_adds {i : Nat} {v : Int} {s t : State} (h : pcmAdd i v s = .next t) (hw : Cells.wf s.pcm.cells = true)
    (j : Nat) : readSlot t.pcm j = readSlot s.pcm j + if j = i then v else 0 := by
  obtain ⟨-, h1, h2, rfl⟩ := pcmAdd_next h
  rw [readSlot_write hw i ⟨h1, h2⟩]
  split
  · next e => rw [e]
  · rw [add_zero]

/-- What a tick into frame `k` adds to slot `i`: a function of CFG, RF and SYN (43_synthesis R172, R192, R193, R198). -/
def tickAdds (p : Params) (rf : RegFile) (syn : Synth) (k i : Nat) : Int :=
  let after := synTick p rf syn
  if p.stereo then (if i = 2 * k then leftSample p rf after else 0) + if i = 2 * k + 1 then rightSample p rf after else 0
  else if i = k then monoSample p rf after else 0

theorem renderTick_adds {k : Nat} {s t : State} (h : renderTick k s = .next t) (hw : Cells.wf s.pcm.cells = true)
    (i : Nat) : readSlot t.pcm i = readSlot s.pcm i + tickAdds s.params s.rf s.syn k i := by
  unfold tickAdds
  rcases renderTick_next h with ⟨hs, h⟩ | ⟨hs, u, h1, h2⟩
  · simp only [hs, Bool.false_eq_true, if_false]
    exact pcmAdd_adds h hw i
  · simp only [hs, if_true]
    rw [pcmAdd_adds h2 (pcmAdd_keeps_wf h1 hw) i, pcmAdd_adds h1 hw i, add_assoc]

/-- Render into a state that differs in CSD, SEQ or the interface only: SYN and the PCM space do the same. -/
theorem render_congr {n dst : Nat} {s s' t : State} (hp : s'.params = s.params) (hr : s'.rf = s.rf)
    (hy : s'.syn = s.syn) (hb : s'.pcm = s.pcm) (h : render n dst s = .next t) :
    render n dst s' = .next { s' with syn := t.syn, pcm := t.pcm } := by
  have add : ∀ {i : Nat} {v : Int} {s s' t : State}, s'.pcm = s.pcm → pcmAdd i v s = .next t →
      pcmAdd i v s' = .next { s' with pcm := t.pcm } := by
    intro i v s s' t hb h
    obtain ⟨h0, h1, h2, rfl⟩ := pcmAdd_next h
    unfold pcmAdd
    rw [hb, if_pos h0, if_pos ⟨h1, h2⟩]
  induction n generalizing dst s s' with
  | zero => cases h; cases s'; cases hy; cases hb; rfl
  | succ n ih =>
    obtain ⟨u, h1, h2⟩ := andThen_eq_next.mp h
    obtain ⟨fu, -⟩ := renderTick_frame h1
    have tick : renderTick dst s' = .next { s' with syn := u.syn, pcm := u.pcm } := by
      have hu : u.syn = synTick s'.params s'.rf s'.syn := by rw [fu, hp, hr, hy]
      unfold renderTick
      rw [hu]
      rcases renderTick_next h1 with ⟨hs, h1⟩ | ⟨hs, w, h1, h3⟩
      · simp only [hp, hs, Bool.false_eq_true, if_false, hr, hy]
        exact add (s := { s with syn := synTick s.params s.rf s.syn }) hb h1
      · simp only [hp, hs, if_true, hr, hy]
        exact andThen_eq_next.mpr ⟨_, add (s := { s with syn := synTick s.params s.rf s.syn }) hb h1, add (s := w) rfl h3⟩
    rw [render_succ, tick, andThen_next]
    exact ih (s := u) (by rw [fu]; exact hp) (by rw [fu]; exact hr) rfl rfl h2

end Sys2Proof.Machine
end

