-- ==== Sys2Proof/Laws/Step.lean ====
section
/-! SUPPORT. What one step can do, said once. -/

namespace Sys2Proof.Machine

/-- With an operation in progress a step is a DecodeStep. -/
theorem step_active {s : State} (h : s.active ≠ .idle) : step s = decodeStep s := by
  unfold step
  split
  · next h0 => exact absurd h0 h
  · rfl
  · rfl

/-- With none in progress a step is the host's next call. -/
theorem step_call {s : State} {c : HostCall} {rest : List HostCall} (h : s.active = .idle) (hc : s.calls = c :: rest) :
    step s = hostCall c { s with calls := rest } := by
  unfold step
  rw [h]
  simp only [hc]

/-- With no call waiting either, nothing changes. -/
theorem step_idle {s : State} (h : s.active = .idle) (hc : s.calls = []) : step s = .next s := by
  unfold step
  rw [h]
  simp only [hc]

/-- A DecodeStep that answers a next state ran a command, or a Fetch of it failed. -/
theorem decodeStep_next {s t : State} (h : decodeStep s = .next t) :
    (∃ u, fetchCommand s = .error u ∧ t = deliver (raiseFault .msBounds u.csd.pos none u)) ∨
      ∃ i u v, fetchCommand s = .ok (i, u) ∧ exec i u = .next v ∧ t = deliver v := by
  unfold decodeStep at h
  split at h
  · next u hu => cases h; exact .inl ⟨u, hu, rfl⟩
  · next i u hu =>
    obtain ⟨v, hv, ht⟩ := andThen_eq_next.mp h
    cases ht
    exact .inr ⟨i, u, v, hu, hv, rfl⟩

/-- A step that answers a next state is an idle one, a host call, or a DecodeStep. -/
theorem step_cases {s t : State} (h : step s = .next t) :
    (s.active = .idle ∧ s.calls = [] ∧ t = s) ∨
      (∃ c rest, s.active = .idle ∧ s.calls = c :: rest ∧ hostCall c { s with calls := rest } = .next t) ∨
      (s.active ≠ .idle ∧ decodeStep s = .next t) := by
  by_cases ha : s.active = .idle
  · cases hc : s.calls with
    | nil => rw [step_idle ha hc] at h; cases h; exact .inl ⟨ha, rfl, rfl⟩
    | cons c rest => rw [step_call ha hc] at h; exact .inr (.inl ⟨c, rest, ha, rfl, h⟩)
  · rw [step_active ha] at h; exact .inr (.inr ⟨ha, h⟩)

/-- Delivering a yield touches no unit but SEQ, and neither the stream nor the configuration. -/
theorem deliver_frame (s : State) :
    (deliver s).csd = s.csd ∧ (deliver s).rf = s.rf ∧ (deliver s).syn = s.syn ∧ (deliver s).params = s.params ∧
      (deliver s).stream = s.stream ∧ (deliver s).len = s.len := by
  unfold deliver
  split <;> try simp
  unfold sequenceEvent
  split <;> try simp
  split <;> simp

/-- A host call leaves CSD, RF, the stream and the configuration alone, or is a Reset with a legal configuration. -/
theorem hostCall_frame {c : HostCall} {s t : State} (h : hostCall c s = .next t) :
    (t.csd = s.csd ∧ t.rf = s.rf ∧ t.params = s.params ∧ t.stream = s.stream ∧ t.len = s.len) ∨
      ∃ p bytes, c = .reset p bytes ∧ p.legal bytes.length = true ∧ t = finish .done (resetCore p bytes s) := by
  cases c with
  | reset p bytes =>
    simp only [hostCall, resetCall] at h
    split at h
    · next hl => cases h; exact .inr ⟨p, bytes, rfl, hl, rfl⟩
    · cases h; exact .inl ⟨rfl, rfl, rfl, rfl, rfl⟩
  | nextEvent =>
    simp only [hostCall, nextEventCall] at h
    cases h
    left
    split <;> exact ⟨rfl, rfl, rfl, rfl, rfl⟩
  | render n dst =>
    obtain ⟨u, h1, h2⟩ := andThen_eq_next.mp h
    cases h2
    left
    rw [render_frame h1]
    exact ⟨rfl, rfl, rfl, rfl, rfl⟩
  | start =>
    cases h
    left
    simp only [startPlayback]
    split <;> exact ⟨rfl, rfl, rfl, rfl, rfl⟩
  | tick granted allIdle =>
    simp only [hostCall, tick] at h
    left
    split at h
    · cases h; exact ⟨rfl, rfl, rfl, rfl, rfl⟩
    · cases h; simp only [tickCommandProcessing]; split <;> exact ⟨rfl, rfl, rfl, rfl, rfl⟩
    · obtain ⟨u, h1, h2⟩ := andThen_eq_next.mp h
      cases h2
      rw [render_frame h1]
      simp only [afterWaitingRender]
      split
      · exact ⟨rfl, rfl, rfl, rfl, rfl⟩
      · split <;> exact ⟨rfl, rfl, rfl, rfl, rfl⟩
    · cases h; simp only [tickBufferWaiting]; split <;> exact ⟨rfl, rfl, rfl, rfl, rfl⟩
    · cases h; simp only [tickEnding]; split <;> exact ⟨rfl, rfl, rfl, rfl, rfl⟩
  | cancel =>
    cases h
    left
    simp only [cancelPlayback]
    split <;> exact ⟨rfl, rfl, rfl, rfl, rfl⟩
  | lend samples =>
    simp only [hostCall, lendCall] at h
    split at h <;> cases h
    exact .inl ⟨rfl, rfl, rfl, rfl, rfl⟩
  | sinkUnavailable => cases h; exact .inl ⟨rfl, rfl, rfl, rfl, rfl⟩

end Sys2Proof.Machine
end

