-- ==== Sys2Proof/Laws/Stream.lean ====
section
/-! SUPPORT. The command positions of a stored stream (30_encoding R102, R103). -/

namespace Sys2Proof.Safety

/-- Without a REF byte in command position every byte is a command (R103's "straight linear scan"), so a stream is
uncompressed exactly when it holds no REF byte at all. -/
theorem uncompressed_iff (bytes : List Byte) : Uncompressed bytes ↔ ∀ b ∈ bytes, commandLength b = 1 := by
  suffices h : ∀ at0, (∀ e ∈ commandStarts at0 0 bytes, commandLength (e.2.headD 0) = 1) ↔
      ∀ b ∈ bytes, commandLength b = 1 from h 0
  intro at0
  induction bytes generalizing at0 with
  | nil => simp [commandStarts]
  | cons b rest ih =>
    simp only [commandStarts, List.mem_cons, forall_eq_or_imp, List.headD_cons]
    exact and_congr_right fun h => by rw [h]; exact ih (at0 + 1)

/-- A part of an uncompressed stream is uncompressed. -/
theorem Uncompressed.part {bytes : List Byte} (h : Uncompressed bytes) (off len : Nat) :
    Uncompressed ((bytes.drop off).take len) :=
  (uncompressed_iff _).mpr fun b hb => (uncompressed_iff _).mp h b (List.mem_of_mem_drop (List.mem_of_mem_take hb))

end Sys2Proof.Safety
end

