-- ==== Sys2Proof/Tests/Slice0.lean ====
section
/-! SUPPORT. The model's own tests. Every expected value comes from spec/: the words from 30_encoding, the results from
the vectors of 95_test_vectors (V<n>) or the rule named. The theorems named test_witness_ meet all hypotheses
of the obligation they name, each clause of it at a boundary. -/

namespace Sys2Proof.Tests

open Sys2Proof Sys2Proof.Machine Sys2Proof.Safety

/-! ### Helpers -/

/-- CFG_EX/T1 of 95_test_vectors. -/
def t1 : Params :=
  { lenMax := 65536, clk := 80000, rate := 2000, stereo := false, panL := .replicate 4 1, panR := .replicate 4 1
    panDen := 1, outDiv := 4
    vol := #v[4096, 3254, 2584, 2053, 1631, 1295, 1029, 817, 649, 516, 410, 325, 258, 205, 163, 0]
    tapMask := 9, noiseDiv := #v[16, 32, 64], lfsrSeed := 0x8000, lfsrResetOnNctrl := false, frameHz := 50, fcw := 32
    block := 64 }

/-- CFG_EX/D of 95_test_vectors. -/
def exD : Params := { t1 with clk := 3579545, rate := 44100, outDiv := 1 }

/-- The configuration of V56. -/
def v56 : Params := { t1 with stereo := true, outDiv := 2, panL := #v[4, 0, 2, 2], panR := #v[0, 4, 2, 2], panDen := 4 }

/-- After Reset with a configuration and a stream. -/
def fresh (p : Params) (bytes : List Byte) : State :=
  resetCore p bytes
    { params := p, stream := [], len := 0, rf := .reset, csd := .reset 0, syn := .reset 0, seq := .reset, pcm := .empty
      active := .idle, ret := .notYet, calls := [], submitted := [] }

/-- With the decoder at a place. -/
def at_ (s : State) (pos rem : Nat) : State := { s with csd := { s.csd with pos := pos, rem := rem } }

/-- With a resume context. -/
def resuming (s : State) (pos rem : Nat) : State :=
  { s with csd := { s.csd with resumeValid := true, resumePos := pos, resumeRem := rem } }

/-- With a loop context. -/
def looping (s : State) (pos rem : Nat) : State :=
  { s with csd := { s.csd with loopValid := true, loopPos := pos, loopRem := rem } }

/-- With a register latched. -/
def latching (s : State) (r : Reg) : State := { s with csd := { s.csd with latched := some r } }

/-- With NextEvent in progress. -/
def calling (s : State) : State := { s with active := .nextEvent }

/-- With a Tick in CommandProcessing in progress. -/
def ticking (s : State) : State := { s with active := .tick, seq := { s.seq with mode := .commandProcessing } }

/-- With one host call waiting. -/
def asked (s : State) (c : HostCall) : State := { s with calls := [c] }

/-- With a buffer of `n` slots, all 0. -/
def lent (s : State) (n : Nat) : State := { s with pcm := { slots := n, cells := [] } }

/-- With a stream that ended. -/
def ended (s : State) : State := { s with csd := { s.csd with status := .ended } }

/-- With a sequencer state. -/
def seqIn (s : State) (mode : SeqMode) (budget : Nat) (haveBuf : Bool) (cursor : Nat) : State :=
  { s with seq := { s.seq with mode := mode, budget := budget, haveBuf := haveBuf, cursor := cursor } }

/-- The stream of V23: `90 38 9F 38 08 00 00 00`. -/
def v23 : State := fresh t1 [0x90, 0x38, 0x9F, 0x38, 0x08, 0x00, 0x00, 0x00]

/-- What holds of the next state, if there is one. -/
def after {α : Type} (r : Result) (f : State → α) : Option α :=
  match r with
  | .next t => some (f t)
  | .fault _ => none
  | .refused _ => none

/-- The refusal, if there is one. -/
def refusal (r : Result) : Option Refusal :=
  match r with
  | .next _ => none
  | .fault _ => none
  | .refused e => some e

/-! ### Well-formedness: each check refuses an ill-formed term (00_scope R9, 30_encoding R96, R100) -/

theorem test_wf_rsvd_low : (Instr.rsvd 1).wellFormed = false ∧ (Instr.rsvd 2).wellFormed = true := by decide
theorem test_wf_rsvd_zero : (Instr.rsvd 0).wellFormed = false ∧ (Instr.rsvd 7).wellFormed = true := by decide
theorem test_wf_ref_short : (Instr.ref 3 0).wellFormed = false ∧ (Instr.ref 4 0).wellFormed = true := by decide
theorem test_wf_ref_long : (Instr.ref 52 0).wellFormed = false ∧ (Instr.ref 51 0).wellFormed = true := by decide

/-! ### Decoding: words written out bit by bit from 30_encoding (R94 to R100); a byte is bits 7..0 -/

/-- 1 000 1010. -/
theorem test_decode_latchTone0 : decode [0b10001010] = .ok (.latchTone0 10, []) := by decide
/-- 1 001 1101. -/
theorem test_decode_latchAtt0 : decode [0b10011101] = .ok (.latchAtt0 13, []) := by decide
/-- 1 010 0011. -/
theorem test_decode_latchTone1 : decode [0b10100011] = .ok (.latchTone1 3, []) := by decide
/-- 1 011 0001. -/
theorem test_decode_latchAtt1 : decode [0b10110001] = .ok (.latchAtt1 1, []) := by decide
/-- 1 100 0001. -/
theorem test_decode_latchTone2 : decode [0b11000001] = .ok (.latchTone2 1, []) := by decide
/-- 1 101 0010. -/
theorem test_decode_latchAtt2 : decode [0b11010010] = .ok (.latchAtt2 2, []) := by decide
/-- 1 110 1000: the command keeps the nibble's bit 3. -/
theorem test_decode_latchNctrl : decode [0b11101000] = .ok (.latchNctrl 8, []) := by decide
/-- 1 111 0100. -/
theorem test_decode_latchNatt : decode [0b11110100] = .ok (.latchNatt 4, []) := by decide
/-- 01 111111 and 01 000010. -/
theorem test_decode_data : decode [0b01111111] = .ok (.data 63, []) ∧ decode [0b01000010] = .ok (.data 2, []) := by decide
/-- 00000000, with bytes after it left over. -/
theorem test_decode_end : decode [0x00, 0x9F] = .ok (.endStream, [0x9F]) := by decide
/-- 00000001. -/
theorem test_decode_loop : decode [0b00000001] = .ok (.loop, []) := by decide
/-- 00000 010 and 00000 111. -/
theorem test_decode_rsvd : decode [0b00000010] = .ok (.rsvd 2, []) ∧ decode [0b00000111] = .ok (.rsvd 7, []) := by decide
/-- len + 4 = 10, then the offset 0x1234 with its low byte first. -/
theorem test_decode_ref : decode [0x0A, 0x34, 0x12, 0x00] = .ok (.ref 6 0x1234, [0x00]) := by decide
/-- The first and the last REF byte, 0x08 and 0x37. -/
theorem test_decode_ref_ends :
    decode [0x08, 0xFF, 0xFF] = .ok (.ref 4 65535, []) ∧ decode [0x37, 0, 0] = .ok (.ref 51 0, []) := by decide
/-- 00111 000 and 00111 111. -/
theorem test_decode_eof : decode [0b00111000] = .ok (.eof 0, []) ∧ decode [0b00111111] = .ok (.eof 7, []) := by decide
/-- A REF without its offset bytes, and no byte at all. -/
theorem test_decode_rejects : decode [0x08, 0x00] = .error .truncated ∧ decode [] = .error .empty := by decide
/-- `TONE 0, 254` is `8E 4F` (95_test_vectors P1). -/
theorem test_encode_tone : encodeTone 0 254 = [0x8E, 0x4F] := by decide
/-- 30_encoding R104. -/
theorem test_asm : (Instr.ref 6 10).asmText = "REF 6, 10" ∧ (Instr.eof 0).asmText = "EOF 1" := by decide
/-- The REF of E2 as a table word of 24 bits. -/
theorem test_table_word : decodeTableWord 24 0x000A0A = some (.ref 6 10) := by decide

/-! ### One command each -/

/-- V3: a tone LATCH keeps bits 9:4. -/
theorem test_latchTone0 :
    after (exec (.latchTone0 0xA) { fresh t1 [] with rf := { RegFile.reset with tone0 := 0x3F5 } })
      (fun t => (t.rf.tone0, t.csd.latched, t.csd.yielded)) =
      some (0x3FA, some .tone0, .event (.registerWrite .tone0 0x3FA)) := by decide
/-- V6. -/
theorem test_latchAtt0 :
    after (exec (.latchAtt0 0xD) (fresh t1 [])) (fun t => (t.rf.att0, t.csd.yielded)) =
      some (13, .event (.registerWrite .att0 0x00D)) := by decide
/-- V1. -/
theorem test_latchTone1 :
    after (exec (.latchTone1 0xC) (fresh t1 [])) (fun t => (t.rf.tone0, t.rf.tone1, t.rf.tone2)) =
      some (0, 12, 0) := by decide
/-- V1. -/
theorem test_latchAtt1 :
    after (exec (.latchAtt1 0xD) (fresh t1 [])) (fun t => (t.rf.att0, t.rf.att1, t.rf.att2)) = some (15, 13, 15) := by
  decide
/-- V1. -/
theorem test_latchTone2 :
    after (exec (.latchTone2 0xE) (fresh t1 [])) (fun t => (t.rf.tone2, t.csd.latched)) = some (14, some .tone2) := by
  decide
/-- V1. -/
theorem test_latchAtt2 :
    after (exec (.latchAtt2 0xE) (fresh t1 [])) (fun t => (t.rf.att2, t.rf.natt)) = some (14, 15) := by decide
/-- V2: bit 3 of the nibble is dropped. -/
theorem test_latchNctrl :
    after (exec (.latchNctrl 0xF) (fresh t1 [])) (fun t => (t.rf.nctrl, t.csd.yielded)) =
      some (7, .event (.registerWrite .nctrl 7)) := by decide
/-- R124: the reseed, under LFSR_RESET_ON_NCTRL only. -/
theorem test_latchNctrl_reseeds :
    (let s := { fresh t1 [] with syn := Synth.reset 0x0123 }
     after (exec (.latchNctrl 4) s) (fun t => t.syn.lfsr) = some 0x0123 ∧
       after (exec (.latchNctrl 4) { s with params := { t1 with lfsrResetOnNctrl := true } }) (fun t => t.syn.lfsr) =
         some 0x8000) := by decide
/-- V1. -/
theorem test_latchNatt :
    after (exec (.latchNatt 1) (fresh t1 [])) (fun t => (t.rf.natt, t.csd.latched)) = some (1, some .natt) := by decide
/-- V9: d = 63 over a low nibble of 15. -/
theorem test_data :
    after (exec (.data 63) (latching { fresh t1 [] with rf := { RegFile.reset with tone0 := 0x00F } } .tone0))
      (fun t => (t.rf.tone0, t.csd.latched)) = some (0x3FF, some .tone0) := by decide
/-- V10: NCTRL is no tone register. -/
theorem test_data_faults :
    after (exec (.data 1) (latching (fresh t1 []) .nctrl)) (fun t => (t.csd.status, t.rf)) =
      some (.faulted .msDataNoToneLatch 0 (some 0x41), RegFile.reset) := by decide
/-- V11. -/
theorem test_end :
    after (exec .endStream (at_ (fresh t1 [0]) 1 0)) (fun t => (t.csd.status, t.csd.pos, t.csd.yielded)) =
      some (.ended, 1, .event .endOfStream) := by decide
/-- V37: the jump leaves the resume context alone. -/
theorem test_end_jumps :
    after (exec .endStream (looping (resuming (at_ v23 10 1) 4 7) 1 10))
      (fun t => (t.csd.pos, t.csd.rem, t.csd.resumeValid, t.csd.resumePos, t.csd.resumeRem)) =
      some (1, 10, true, 4, 7) := by decide
/-- E3: the captured pair is the one after the LOOP byte. -/
theorem test_loop :
    after (exec .loop (at_ v23 4 5)) (fun t => (t.csd.loopValid, t.csd.loopPos, t.csd.loopRem)) = some (true, 4, 5) := by
  decide
/-- V15: the second LOOP reports and snapshots nothing. -/
theorem test_loop_again :
    after (exec .loop (looping (at_ v23 3 2) 1 4)) (fun t => (t.csd.loopPos, t.csd.loopRem, t.csd.yielded)) =
      some (1, 4, .event .loopStart) := by decide
/-- V18. -/
theorem test_rsvd :
    after (step (calling (at_ (fresh t1 [0x90, 0x07, 0x00]) 1 2))) (fun t => (t.ret, t.csd.pos)) =
      some (.malformed .msReserved 1 (some 0x07), 2) := by decide
/-- E2: REF 6, 10 at offset 40 of 48 bytes; the pair is already past the command. -/
theorem test_ref :
    after (exec (.ref 6 10) { at_ v23 43 5 with len := 48 })
      (fun t => (t.csd.pos, t.csd.rem, t.csd.resumePos, t.csd.resumeRem, t.csd.resumeValid)) =
      some (10, 6, 43, 5, true) := by decide
/-- V30: dangling is reported before nested. -/
theorem test_ref_dangling :
    after (exec (.ref 4 65535) (resuming v23 3 1)) (fun t => t.csd.status) =
      some (.faulted .msDanglingRef 0 (some 0x08)) := by decide
/-- V20: the counter wraps modulo 2^32. -/
theorem test_eof :
    after (exec (.eof 7) { v23 with csd := { v23.csd with fc := 4294967293 } }) (fun t => (t.csd.fc, t.csd.yielded)) =
      some (5, .event (.endOfFrame 8)) := by decide

/-! ### Fetch, NextEvent, Reset -/

/-- V26: the region reaches past the buffer; the fault is at `pos` = LEN. -/
theorem test_fetch_bounds :
    after (step (calling (resuming (at_ (fresh t1 [0x0C, 0x03, 0x00, 0x90, 0x38, 0x9F, 0x38]) 7 4) 3 4)))
      (fun t => (t.ret, t.csd.resumeValid)) = some (.malformed .msBounds 7 none, true) := by decide
/-- V38: the restore comes first, so the fault is at the return position. -/
theorem test_fetch_restores :
    after (step (calling (resuming (at_ v23 4 0) 7 0))) (fun t => (t.ret, t.csd.resumeValid)) =
      some (.malformed .msBounds 7 none, false) := by decide
/-- V21: nothing changes out of Running. -/
theorem test_next_event_after_end :
    after (step (asked (ended v23) .nextEvent)) (fun t => (t.ret, decide (t.csd = (ended v23).csd))) =
      some (.invalidCall, true) := by decide
/-- R310, R10: 4 * 4096 > 32767 * 0, and OUT_DIV = 0 breaks its own constraint too. -/
theorem test_reset_refuses :
    after (step (asked v23 (.reset { t1 with outDiv := 0 } []))) (fun t => (t.ret, t.len)) =
      some (.invalidParameter [.outDiv, .headroom], 8) := by decide
/-- R48, R37. -/
theorem test_reset_takes :
    after (step (asked (ended v23) (.reset exD [0x00, 0x01]))) (fun t => (t.csd.rem, t.csd.status, t.stream)) =
      some (2, .running, [(1, 0x01)]) := by decide
/-- The frames of 95_test_vectors are legal (its own note on CFG_EX). -/
theorem test_examples_legal : t1.legal 0 = true ∧ exD.legal 0 = true ∧ v56.legal 0 = true := by decide
/-- `withFetchWord`: the next step runs the REF of 0x08, offset 0. -/
theorem test_with_fetch_word :
    after (step (v23.withFetchWord 24 0x000008)) (fun t => (t.csd.pos, t.csd.rem, t.csd.resumePos)) = some (0, 4, 3) := by
  decide

/-! ### SYN -/

/-- V40, ticks 13 and 14; V42. -/
theorem test_clock :
    clockStep exD 41873 = (6, 994) ∧ clockStep exD 0 = (5, 3221) ∧ clockStep t1 0 = (2, 1000) ∧
      clockStep t1 1000 = (3, 0) := by decide
/-- V44, ticks 1 and 5: the test is <= 0 and the reload is additive. -/
theorem test_tone : toneStep 4 2 0 .plus = (2, .minus) ∧ toneStep 4 2 2 .minus = (4, .plus) := by decide
/-- V46: three flips in one tick; V47: the pinned channel. -/
theorem test_tone_flips : toneStep 2 5 0 .plus = (1, .minus) ∧ toneStep 1 2 7 .minus = (7, .plus) := by decide
/-- V48, the twelfth, thirteenth and sixteenth shifts; V49. -/
theorem test_shift :
    shiftLfsr 9 true 0x0010 = 0x0008 ∧ shiftLfsr 9 true 0x0008 = 0x8004 ∧ shiftLfsr 9 true 0x2001 = 0x9000 ∧
      shiftLfsr 9 false 0x0001 = 0x8000 := by decide
/-- V52 under CFG_EX/D: six shifts in the first tick; V51. -/
theorem test_noise :
    noiseStep 9 true 1 5 0 0x8000 = (1, 0x0200) ∧ noiseStep 9 false 0 2 0 0x8000 = (0, 0x8000) := by decide
/-- V53: NCTRL = 0 has NOISE_DIV[0]; R185: setting 3 has TONE2. -/
theorem test_noise_period :
    noisePeriod t1 .reset = 16 ∧ noisePeriod t1 { RegFile.reset with nctrl := 7, tone2 := 9 } = 9 := by decide
/-- V54. -/
theorem test_tdiv : tdiv (-4097) 4 = -1024 ∧ tdiv 4097 4 = 1024 ∧ tdiv (-3) 4 = 0 ∧ tdiv (-7) 2 = -3 := by decide
/-- The registers of V55. -/
def v55 : RegFile :=
  { tone0 := 4, att0 := 0, tone1 := 6, att1 := 2, tone2 := 10, att2 := 4, nctrl := 4, natt := 6 }
/-- V55, tick 1. -/
theorem test_mono :
    after (render 1 0 { lent (fresh t1 []) 1 with rf := v55 }) (fun t => (readSlot t.pcm 0, t.syn.lfsr)) =
      some (-2335, 0x4000) := by decide
/-- V56, tick 1. -/
theorem test_stereo :
    after (render 1 0 { lent (fresh v56 []) 2 with rf := v55 }) (fun t => (readSlot t.pcm 0, readSlot t.pcm 1)) =
      some (-2713, -1957) := by decide
/-- V59: 100 - 1024, and 32000 + 1024 refused. -/
theorem test_accumulate :
    after (pcmAdd 0 (-1024) { v23 with pcm := .ofSamples [100] }) (fun t => readSlot t.pcm 0) = some (-924) ∧
      refusal (pcmAdd 0 1024 { v23 with pcm := .ofSamples [32000] }) = some .pcmOverflow := by decide
/-- Log 12 and 13: the model's own stops. -/
theorem test_stops :
    refusal (pcmAdd 1 0 (lent v23 1)) = some .pcmSlotMissing ∧
      refusal (step (asked (seqIn v23 .waiting 1 true 0) (.lend []))) = some .lendWhileHeld := by decide

/-! ### SEQ (V60, V61, V62) -/

/-- V60, Tick 1's last event: EOF(1) gives a budget of 40. -/
theorem test_tick_budget :
    after (step (ticking (at_ v23 1 7))) (fun t => (t.seq.budget, t.seq.mode, t.csd.fc)) = some (40, .waiting, 1) := by
  decide
/-- V60, Tick 2: no buffer is held. -/
theorem test_tick_no_buffer :
    after (step (asked (seqIn v23 .waiting 40 false 0) (.tick false false)))
      (fun t => (t.seq.mode, t.seq.budget, t.submitted.length)) = some (.bufferWaiting, 40, 0) := by decide
/-- V60, Tick 3: the granted buffer is zero-filled. -/
theorem test_tick_granted :
    after (step (asked (seqIn v23 .bufferWaiting 40 false 0) (.tick true false)))
      (fun t => (t.seq.mode, t.seq.haveBuf, t.seq.cursor, t.pcm)) =
      some (.waiting, true, 0, { slots := 64, cells := [] }) := by decide
/-- V60, Tick 12. -/
theorem test_tick_ending :
    after (step (asked (seqIn v23 .ending 0 false 0) (.tick false true))) (fun t => (t.seq.mode, t.seq.term)) =
      some (.idle, .completed) := by decide
/-- V61. -/
theorem test_cancel :
    after (step (asked (seqIn v23 .bufferWaiting 56 false 64) .cancel)) (fun t => t.seq) =
      some { mode := .idle, budget := 0, haveBuf := false, cursor := 0, term := .cancelled } := by decide
/-- V62: the fault stops playback and drops the held buffer. -/
theorem test_tick_fault :
    after (step (ticking (seqIn (lent (at_ (fresh t1 [0x90, 0x38]) 2 0) 64) .commandProcessing 0 true 40)))
      (fun t => (t.seq.term, t.seq.mode, t.submitted.length, t.pcm.slots)) =
      some (.failed .msBounds, .idle, 0, 0) := by decide
/-- 60_exceptions R270, R271: RES_UNAVAILABLE is a terminal status. -/
theorem test_sink_unavailable :
    after (step (asked v23 .sinkUnavailable)) (fun t => (t.ret, t.seq.term)) =
      some (.resUnavailable, .failed .resUnavailable) := by decide

/-! ### The producer's contract -/

/-- R103: a REF that the stream's end cuts is a REF byte in command position; the bytes of V1 hold none. -/
theorem test_uncompressed :
    ¬Uncompressed [0x08] ∧ ¬Uncompressed [0x90, 0x08, 0x00] ∧ Uncompressed [0x8A, 0x9B, 0xE7, 0xF1, 0x00] := by
  unfold Uncompressed; decide
/-- R102: the command positions of V29 are 0, 1 and 4. -/
theorem test_command_starts :
    (commandStarts 0 0 [0x90, 0x08, 0x00, 0x00, 0x00]).map Prod.fst = [0, 1, 4] := by decide
/-- R252: the REF at 7 lies in the region of the REF at 10, although the region's end cuts it (42_back_reference R164). -/
theorem test_nested_region :
    let bytes : List Byte := [0x90, 0x38, 0x9F, 0x38, 0x91, 0x92, 0x93, 0x08, 0, 0, 0x08, 0x04, 0, 0, 0, 0]
    (10, bytes.drop 10) ∈ commandStarts 0 0 bytes ∧ decode (bytes.drop 10) = .ok (.ref 4 4, [0, 0, 0]) ∧
      ¬Uncompressed ((bytes.drop 4).take 4) := by
  unfold Uncompressed; decide

/-! ### The invariants at small states -/

theorem test_memory_canonical_form :
    Cells.wf (w := 8) [(1, 5), (1, 6)] = false ∧ Cells.wf (w := 8) [(1, 0)] = false ∧
      Cells.wf (w := 8) [(1, 5), (3, 6)] = true := by decide

/-! ### Witnesses: states and operands that meet each obligation's hypotheses -/

theorem test_witness_DecodeOfEncodeIsTheCommand :
    (Instr.ref 4 0).wellFormed = true ∧ (Instr.ref 51 65535).wellFormed = true ∧ (Instr.rsvd 2).wellFormed = true := by
  decide

theorem test_witness_DecodedBytesEncodeBack :
    decode [0x37, 0xFF, 0x01, 0x00] = .ok (.ref 51 511, [0x00]) ∧ decode [0x07] = .ok (.rsvd 7, []) := by decide

theorem test_witness_FirstByteTellsLength :
    (0x08 ≤ (0x08 : Byte).toNat ∧ (0x08 : Byte).toNat ≤ 0x37) ∧
      (0x08 ≤ (0x37 : Byte).toNat ∧ (0x37 : Byte).toNat ≤ 0x37) ∧
      ¬(0x08 ≤ (0x07 : Byte).toNat ∧ (0x07 : Byte).toNat ≤ 0x37) ∧
      ¬(0x08 ≤ (0x38 : Byte).toNat ∧ (0x38 : Byte).toNat ≤ 0x37) := by decide

/-- V13, V26 and V38 for the first byte, a REF at the end of the buffer, and V27. -/
theorem test_witness_BoundsFaultEndsNextEvent :
    (let s := calling (fresh t1 [])
     s.active = .nextEvent ∧ s.csd.rem = 0 ∧ s.csd.resumeValid = false) ∧
    (let s := calling (resuming (at_ v23 8 4) 3 4)
     s.active = .nextEvent ∧ s.csd.rem ≠ 0 ∧ s.len ≤ s.csd.pos) ∧
    (let s := calling (resuming (at_ v23 4 0) 7 0)
     s.active = .nextEvent ∧ (decide (s.csd.rem = 0) && s.csd.resumeValid) = true ∧ s.csd.resumeRem = 0) ∧
    (let s := calling (fresh t1 [0x37])
     ∃ t u, fetch { s with csd := { s.csd with cmdAt := s.csd.pos } } = .ok (0x37, t) ∧
      (0x08 ≤ (0x37 : Byte).toNat ∧ (0x37 : Byte).toNat ≤ 0x37) ∧ fetch t = .error u) ∧
    (let s := calling (at_ (fresh t1 [0x90, 0x38, 0x08, 0x00]) 2 2)
     ∃ t u v, fetch { s with csd := { s.csd with cmdAt := s.csd.pos } } = .ok (0x08, t) ∧
      (0x08 ≤ (0x08 : Byte).toNat ∧ (0x08 : Byte).toNat ≤ 0x37) ∧ fetch t = .ok (0x00, u) ∧ fetch u = .error v) :=
  ⟨by decide, by decide, by decide, ⟨_, _, rfl, by decide, rfl⟩, ⟨_, _, _, rfl, by decide, rfl, rfl⟩⟩

/-- The REF of V23, its three bytes the last of the region and of the buffer: at top level, and right after a return. -/
theorem test_witness_StepRunsTheDecodedCommand :
    (let s := calling (at_ { v23 with len := 7 } 4 3)
     s.active ≠ .idle ∧ (decide (s.csd.rem = 0) && s.csd.resumeValid) = false ∧
      decode [memRead s.stream s.csd.pos, memRead s.stream (s.csd.pos + 1), memRead s.stream (s.csd.pos + 2)] =
        .ok (.ref 4 0, []) ∧
      (encode (.ref 4 0)).length ≤ s.csd.rem ∧ s.csd.pos + (encode (.ref 4 0)).length ≤ s.len) ∧
    (let s := ticking (resuming (at_ { v23 with len := 7 } 4 0) 4 3)
     s.active ≠ .idle ∧ (decide (s.csd.rem = 0) && s.csd.resumeValid) = true ∧
      decode [memRead s.stream s.csd.resumePos, memRead s.stream (s.csd.resumePos + 1),
        memRead s.stream (s.csd.resumePos + 2)] = .ok (.ref 4 0, []) ∧
      (encode (.ref 4 0)).length ≤ s.csd.resumeRem ∧ s.csd.resumePos + (encode (.ref 4 0)).length ≤ s.len) := by decide

/-- V39, cut after its first byte and after its second. -/
theorem test_witness_CutReferenceTakesBytesAfterReturn :
    (let s := resuming (at_ v23 4 1) 6 2
     s.csd.resumeValid = true ∧ s.csd.pos < s.len ∧
       (0x08 ≤ (memRead s.stream s.csd.pos).toNat ∧ (memRead s.stream s.csd.pos).toNat ≤ 0x37) ∧ s.csd.rem = 1 ∧
       2 ≤ s.csd.resumeRem ∧ s.csd.resumePos + 2 ≤ s.len) ∧
    (let s := resuming (at_ v23 4 2) 7 1
     s.csd.resumeValid = true ∧ s.csd.pos < s.len ∧
       (0x08 ≤ (memRead s.stream s.csd.pos).toNat ∧ (memRead s.stream s.csd.pos).toNat ≤ 0x37) ∧ s.csd.rem = 2 ∧
       s.csd.pos + 2 ≤ s.len ∧ 1 ≤ s.csd.resumeRem ∧ s.csd.resumePos + 1 ≤ s.len) := by decide

/-- A REF yields nothing, an EOF an event, a second REF inside the region a fault. -/
theorem test_witness_NextEventReturnsTheYield :
    (∃ s t u i, s.active = .nextEvent ∧ fetchCommand s = .ok (i, t) ∧ exec i t = .next u ∧
      u.csd.yielded = .nothing) ∧
    (∃ s t u i, s.active = .nextEvent ∧ fetchCommand s = .ok (i, t) ∧ exec i t = .next u ∧
      u.csd.yielded = .event (.endOfFrame 1)) ∧
    (∃ s t u i, s.active = .nextEvent ∧ fetchCommand s = .ok (i, t) ∧ exec i t = .next u ∧
      u.csd.yielded = .fault .msNestedRef 4 (some 0x08)) :=
  ⟨⟨calling (at_ v23 4 4), _, _, .ref 4 0, rfl, rfl, rfl, rfl⟩, ⟨calling (at_ v23 1 7), _, _, .eof 0, rfl, rfl, rfl, rfl⟩,
    ⟨calling (resuming (at_ v23 4 4) 7 1), _, _, .ref 4 0, rfl, rfl, rfl, rfl⟩⟩

theorem test_witness_DataWritesTheLatchedToneOrFaults :
    (latching v23 .tone0).csd.latched = some .tone0 ∧ (latching v23 .tone1).csd.latched = some .tone1 ∧
      (latching v23 .tone2).csd.latched = some .tone2 ∧
      v23.csd.latched ∉ [some Reg.tone0, some Reg.tone1, some Reg.tone2] ∧
      (latching v23 .nctrl).csd.latched ∉ [some Reg.tone0, some Reg.tone1, some Reg.tone2] := by decide

/-- A DATA fetched right after its LATCH: `pos` and `rem` have moved, the registers and `latched` have not. -/
theorem test_witness_LatchThenDataComposesThePeriod :
    (∃ t u, exec (.latchTone0 14) v23 = .next t ∧ u = at_ t 2 6 ∧ u.rf = t.rf ∧ u.csd.latched = t.csd.latched) ∧
    (∃ t u, exec (.latchTone1 0) v23 = .next t ∧ u = at_ t 2 6 ∧ u.rf = t.rf ∧ u.csd.latched = t.csd.latched) ∧
    (∃ t u, exec (.latchTone2 15) v23 = .next t ∧ u = at_ t 2 6 ∧ u.rf = t.rf ∧ u.csd.latched = t.csd.latched) :=
  ⟨⟨_, _, rfl, rfl, rfl, rfl⟩, ⟨_, _, rfl, rfl, rfl, rfl⟩, ⟨_, _, rfl, rfl, rfl, rfl⟩⟩

theorem test_witness_EndWithoutLoopContextEndsTheStream : v23.csd.loopValid = false := by decide

theorem test_witness_EndWithLoopContextJumps : (looping v23 8 0).csd.loopValid = true := by decide

/-- A state for `exec`; a marker that is the last byte of region and buffer; one right after a return; and a jump to it. -/
theorem test_witness_FirstLoopCapturesThePair :
    (at_ v23 8 0).csd.loopValid = false ∧
    (let s := ticking (resuming (at_ (fresh t1 [0x90, 0x01]) 1 0) 1 1)
     ∃ u, s.active ≠ .idle ∧ s.csd.loopValid = false ∧ fetchCommand s = .ok (.loop, u)) ∧
    (let s := calling (fresh t1 [0x01])
     let v := looping v23 1 0
     ∃ t u w, s.active ≠ .idle ∧ s.csd.loopValid = false ∧ fetchCommand s = .ok (.loop, u) ∧ step s = .next t ∧
      v.csd.loopValid = true ∧ v.csd.loopPos = t.csd.loopPos ∧ v.csd.loopRem = t.csd.loopRem ∧
      exec .endStream v = .next w) :=
  ⟨by decide, ⟨_, by decide, rfl, rfl⟩, _, _, _, by decide, rfl, rfl, rfl, rfl, rfl, rfl, rfl⟩

theorem test_witness_LaterLoopKeepsTheContext : (looping v23 1 7).csd.loopValid = true := by decide

/-- Offsets 8 = LEN and 7 = LEN - 1 (V24). -/
theorem test_witness_RefFaultsOrEntersTheRegion :
    v23.len ≤ (8 : BitVec 16).toNat ∧
      ((7 : BitVec 16).toNat < v23.len ∧ (resuming v23 7 1).csd.resumeValid = true) ∧
      ((7 : BitVec 16).toNat < v23.len ∧ v23.csd.resumeValid = false) := by decide

theorem test_witness_CommandsLeaveTheRestAlone :
    (∃ t, exec (.ref 4 7) v23 = .next t) ∧ ∃ t, exec (.latchNctrl 15) v23 = .next t := ⟨⟨_, rfl⟩, ⟨_, rfl⟩⟩

theorem test_witness_NextEventBeginsOnlyInRunning :
    (let s := asked v23 .nextEvent
     s.active = .idle ∧ s.calls = [.nextEvent] ∧ s.csd.status = .running) ∧
    (let s := asked (ended v23) .nextEvent
     s.active = .idle ∧ s.calls = [.nextEvent] ∧ s.csd.status ≠ .running) := by decide

theorem test_witness_OnlyResetLeavesEndedOrFaulted :
    ∃ s t, ActiveOnlyWhenRunning s ∧ s.csd.status ≠ .running ∧ step s = .next t :=
  ⟨asked (ended v23) .nextEvent, _, fun h => absurd rfl h, by decide, rfl⟩

theorem test_witness_OnlyLatchDataAndResetWriteRegisters : ∃ s t, step s = .next t ∧ t.rf ≠ s.rf :=
  ⟨calling v23, _, rfl, by decide⟩

theorem test_witness_OnlyResetChangesStreamAndConfiguration : ∃ t, step (asked v23 .start) = .next t := ⟨_, rfl⟩

theorem test_witness_LoopContextNeverChangesOnceSet :
    ∃ s t, s.csd.loopValid = true ∧ step s = .next t := ⟨calling (looping v23 8 0), _, rfl, rfl⟩

theorem test_witness_NextEventReturnsWithinTwoDecodeSteps :
    (calling (at_ v23 4 4)).active = .nextEvent ∧ (calling (at_ v23 4 4)).csd.loopValid = false := by decide

theorem test_witness_LoopStreamNeverEnds :
    ∃ s t, s.csd.loopValid = true ∧ step s = .next t := ⟨ticking (looping (at_ v23 7 1) 1 7), _, rfl, rfl⟩

/-- A legal and an illegal configuration. -/
theorem test_witness_ResetTakesLegalConfigurationsOnly :
    (let s := asked v23 (.reset t1 [0x00])
     s.active = .idle ∧ s.calls = [.reset t1 [0x00]] ∧ t1.legal 1 = true) ∧
    (let p := { t1 with frameHz := 101 }
     let s := asked v23 (.reset p [])
     s.active = .idle ∧ s.calls = [.reset p []] ∧ p.legal 0 = false) := by decide

/-- A step that writes a slot. -/
theorem test_witness_EveryStepKeepsMemoryCanonical :
    ∃ s t, MemoryCanonical s ∧ step s = .next t :=
  ⟨asked { lent v23 1 with rf := v55 } (.render 1 0), _, ⟨by decide, by decide, nofun⟩, rfl⟩

theorem test_witness_EveryStepKeepsPositionsBounded :
    ∃ s t, PositionsBounded s ∧ step s = .next t :=
  ⟨calling (resuming (at_ v23 8 0) 7 1), _, by unfold PositionsBounded ConfigLegal; decide, rfl⟩

theorem test_witness_EveryStepKeepsCountersBounded :
    ∃ s t, CountersBounded s ∧ step s = .next t :=
  ⟨asked (seqIn (lent v23 64) .waiting 2 true 63) (.tick false false), _,
    by unfold CountersBounded ConfigLegal; decide, rfl⟩

theorem test_witness_EveryStepKeepsActiveOnlyWhenRunning :
    ∃ s t, ActiveOnlyWhenRunning s ∧ step s = .next t := ⟨calling (at_ v23 7 1), _, fun _ => rfl, rfl⟩

/-- A LOOP at top level, whose fetched state holds no resume context. -/
theorem test_witness_EveryStepKeepsTopRegionEndingAtLen :
    ∃ s t, TopRegionEndsAtLen s ∧ step s = .next t ∧
      ∀ u, s.active ≠ .idle → fetchCommand s = .ok (.loop, u) → u.csd.resumeValid = false ∨ u.csd.loopValid = true :=
  ⟨calling (fresh t1 [0x01, 0x38, 0x00]), _, by unfold TopRegionEndsAtLen; decide, rfl,
    fun _ _ h => by cases h; exact .inl rfl⟩

theorem test_witness_LinearScanReadsTheStreamInOrder :
    let bytes : List Byte := [0x80, 0x00]
    (∀ j, (hj : j < 1) → steersStream (bytes[j]'(by simp [bytes]; omega)) = false) ∧
      (steersStream bytes[1] = false ∨ bytes[1] = 0) ∧ (csdRun 1 (sessionStart t1 bytes)).csd.status = .running := by
  refine ⟨fun j hj => ?_, by decide, rfl⟩
  obtain rfl : j = 0 := by omega
  rfl

/-- V23, its REF at offset 4, all four bytes of its region. -/
theorem test_witness_BackReferenceIsTransparent :
    let s := at_ v23 4 4
    ∃ u, decoded s = some (.ref 4 0, u) ∧ (restoreRegion s).csd.resumeValid = false ∧ 0 + 4 ≤ s.len ∧
      TopRegionEndsAtLen s ∧
      (let inPlace : State := { u with csd := { u.csd with pos := 0, rem := 4 } }
       (csdRun 4 inPlace).csd.status = .running ∧
       ∀ j, j < 4 → (csdRun j inPlace).csd.status = .running →
        let b := (memRead s.stream (0 + j)).toNat
        b ≠ 1 ∧ ¬(0x08 ≤ b ∧ b ≤ 0x37) ∧ (b = 0 → s.csd.loopValid = false)) :=
  ⟨_, rfl, rfl, by decide, by unfold TopRegionEndsAtLen; decide, rfl, by decide⟩

/-- `01 38 00`: the END is decoded one DecodeStep after the LOOP's. -/
theorem test_witness_LoopJumpRestoresTheStateAfterLoop :
    let s := fresh t1 [0x01, 0x38, 0x00]
    ∃ u v, decoded s = some (.loop, u) ∧ u.csd.resumeValid = false ∧ u.csd.loopValid = false ∧
      decoded (csdRun 1 (csdStep s)) = some (.endStream, v) ∧ v.csd.resumeValid = false ∧ TopRegionEndsAtLen s :=
  ⟨_, _, rfl, rfl, rfl, rfl, rfl, by unfold TopRegionEndsAtLen; decide⟩

theorem test_witness_ClockConversionLosesNoCycle : 1 ≤ t1.rate ∧ 1 ≤ { t1 with rate := 1 }.rate := by decide

/-- Periods 0, 1, 2, and counts that stay above zero or meet it. -/
theorem test_witness_ToneChannelFollowsItsPeriod :
    (0 ≤ 1 ∧ 1 ≤ 1) ∧ (2 ≤ 2 ∧ (0 : Int) < 6 - (5 : Nat)) ∧ (2 ≤ 2 ∧ (5 : Int) - (5 : Nat) ≤ 0) := by decide

/-- The four settings, and periods 0 and 1. -/
theorem test_witness_NoiseChannelFollowsItsPeriod :
    (RegFile.reset.nctrl.toNat % 4 = 0 ∧ { RegFile.reset with nctrl := 5 }.nctrl.toNat % 4 = 1 ∧
      { RegFile.reset with nctrl := 6 }.nctrl.toNat % 4 = 2 ∧ { RegFile.reset with nctrl := 7 }.nctrl.toNat % 4 = 3) ∧
      (1 ≤ 1 ∧ (0 : Int) < 6 - (5 : Nat)) ∧ (1 ≤ 1 ∧ (5 : Int) - (5 : Nat) ≤ 0) := by decide

theorem test_witness_ShiftReachesZeroOnlyFromZero :
    (1 : BitVec 16) ≠ 0 ∧ ((0x8000 : BitVec 16) ≠ 0 ∧ (9 : BitVec 16).toNat % 2 = 1) := by decide

/-- V55 in mono and V56 in stereo, at the last frame of the buffer. -/
theorem test_witness_TickMixesIntoItsSlots :
    (let s : State := { lent v23 2 with rf := v55 }
     let m := monoSample s.params s.rf (synTick s.params s.rf s.syn)
     Cells.wf s.pcm.cells = true ∧ s.params.stereo = false ∧ 1 < s.pcm.slots ∧ m = -2335 ∧
       -32768 ≤ readSlot s.pcm 1 + m ∧ readSlot s.pcm 1 + m ≤ 32767) ∧
    (let s : State := { lent (fresh v56 []) 2 with rf := v55 }
     let l := leftSample s.params s.rf (synTick s.params s.rf s.syn)
     let r := rightSample s.params s.rf (synTick s.params s.rf s.syn)
     Cells.wf s.pcm.cells = true ∧ s.params.stereo = true ∧ 2 * 0 + 1 < s.pcm.slots ∧ l = -2713 ∧ r = -1957 ∧
       -32768 ≤ readSlot s.pcm 0 + l ∧ readSlot s.pcm 0 + l ≤ 32767 ∧
       -32768 ≤ readSlot s.pcm 1 + r ∧ readSlot s.pcm 1 + r ≤ 32767) := by decide

/-- Sums 32767, -32768, 32768 and -32769, and the first slot the buffer does not have. -/
theorem test_witness_PcmAddAccumulatesOrRefuses :
    let s : State := { v23 with pcm := .ofSamples [100] }
    Cells.wf s.pcm.cells = true ∧
      (0 < s.pcm.slots ∧ readSlot s.pcm 0 + 32667 = 32767 ∧ readSlot s.pcm 0 + -32868 = -32768) ∧
      (0 < s.pcm.slots ∧ 32767 < readSlot s.pcm 0 + 32668 ∧ readSlot s.pcm 0 + -32869 < -32768) ∧
      s.pcm.slots ≤ 1 := by decide

/-- The call of P4, after the stream's end; and a Render of one frame. -/
theorem test_witness_RenderTouchesOnlyItsFrames :
    (asked (lent (ended v23) 11) (.render 8 0)).active = .idle ∧
    (asked (lent (ended v23) 11) (.render 8 0)).calls = [.render 8 0] ∧
    ∃ t, render 1 1 { lent (fresh v56 []) 6 with rf := v55 } = .next t ∧ (1 < 2 * 1 ∧ 2 * (1 + 1) ≤ 4) :=
  ⟨rfl, rfl, _, rfl, by decide⟩

theorem test_witness_RenderCompletesOnZeroSlots :
    let s : State := { lent v23 3 with rf := v55 }
    ConfigLegal s ∧ Cells.wf s.pcm.cells = true ∧ 1 * (1 + 2) ≤ s.pcm.slots ∧
      ∀ i, 1 * 1 ≤ i → i < 1 * (1 + 2) → readSlot s.pcm i = 0 :=
  ⟨by unfold ConfigLegal; decide, rfl, by decide, fun _ _ _ => rfl⟩

theorem test_witness_SilenceAfterReset :
    let s : State := { v23 with pcm := .ofSamples [100, -100] }
    ConfigLegal s ∧ Cells.wf s.pcm.cells = true ∧ s.rf = RegFile.reset ∧ s.syn.pol0 = .plus ∧ s.syn.pol1 = .plus ∧
      s.syn.pol2 = .plus ∧ 1 * (0 + 2) ≤ s.pcm.slots :=
  ⟨by unfold ConfigLegal; decide, by decide, rfl, rfl, rfl, rfl, by decide⟩

/-- Two states that differ in what Render does not read: with different buffers, and with the same one. -/
theorem test_witness_RenderReadsOnlyItsInputs :
    (let s : State := { v23 with pcm := .ofSamples [100, -100], rf := v55 }
     let s' := lent (ended (asked (looping s 1 7) .cancel)) 1
     s'.params = s.params ∧ s'.rf = s.rf ∧ s'.syn = s.syn ∧ s'.pcm ≠ s.pcm ∧ Cells.wf s.pcm.cells = true ∧
       Cells.wf s'.pcm.cells = true ∧ (∃ t, render 1 0 s = .next t) ∧ ∃ t', render 1 0 s' = .next t') ∧
    (let s := lent v23 1
     let s' := ended (asked (looping s 1 7) .cancel)
     s'.params = s.params ∧ s'.rf = s.rf ∧ s'.syn = s.syn ∧ s'.pcm = s.pcm ∧ s' ≠ s ∧ ∃ t, render 1 0 s = .next t) :=
  ⟨⟨rfl, rfl, rfl, by decide, by decide, rfl, ⟨_, rfl⟩, _, rfl⟩, rfl, rfl, rfl, rfl, by decide, _, rfl⟩

theorem test_witness_StartAndCancelSwitchPlayback :
    (let s := asked v23 .start
     s.active = .idle ∧ s.calls = [.start] ∧ s.seq.mode = .idle) ∧
    (let s := asked (seqIn v23 .ending 0 false 0) .start
     s.active = .idle ∧ s.calls = [.start] ∧ s.seq.mode ≠ .idle) ∧
    (let s := asked (seqIn (lent v23 64) .waiting 1 true 64) .cancel
     s.active = .idle ∧ s.calls = [.cancel] ∧ s.seq.mode ≠ .idle) ∧
    (let s := asked v23 .cancel
     s.active = .idle ∧ s.calls = [.cancel] ∧ s.seq.mode = .idle) := by decide

/-- V62's Fetch, then a REF, a LATCH, a LOOP, an EOF, END with and without a buffer to submit, and a nested REF. -/
theorem test_witness_CommandProcessingActsOnEvents :
    (∃ s t, s.active = .tick ∧ fetchCommand s = .error t) ∧
    (∃ s t u i, s.active = .tick ∧ fetchCommand s = .ok (i, t) ∧ exec i t = .next u ∧ u.csd.yielded = .nothing) ∧
    (∃ s t u i, s.active = .tick ∧ fetchCommand s = .ok (i, t) ∧ exec i t = .next u ∧
      u.csd.yielded = .event (.registerWrite .att0 0)) ∧
    (∃ s t u i, s.active = .tick ∧ fetchCommand s = .ok (i, t) ∧ exec i t = .next u ∧
      u.csd.yielded = .event .loopStart) ∧
    (∃ s t u i, s.active = .tick ∧ fetchCommand s = .ok (i, t) ∧ exec i t = .next u ∧
      u.csd.yielded = .event (.endOfFrame 1)) ∧
    (∃ s t u i, s.active = .tick ∧ fetchCommand s = .ok (i, t) ∧ exec i t = .next u ∧
      u.csd.yielded = .event .endOfStream ∧ s.seq.haveBuf = true ∧ 0 < s.seq.cursor) ∧
    (∃ s t u i, s.active = .tick ∧ fetchCommand s = .ok (i, t) ∧ exec i t = .next u ∧
      u.csd.yielded = .event .endOfStream ∧ ¬(s.seq.haveBuf = true ∧ 0 < s.seq.cursor)) ∧
    (∃ s t u i, s.active = .tick ∧ fetchCommand s = .ok (i, t) ∧ exec i t = .next u ∧
      u.csd.yielded = .fault .msNestedRef 4 (some 0x08)) :=
  ⟨⟨ticking (at_ (fresh t1 [0x90, 0x38]) 2 0), _, rfl, rfl⟩,
    ⟨ticking (at_ v23 4 4), _, _, .ref 4 0, rfl, rfl, rfl, rfl⟩, ⟨ticking v23, _, _, .latchAtt0 0, rfl, rfl, rfl, rfl⟩,
    ⟨ticking (fresh t1 [0x01]), _, _, .loop, rfl, rfl, rfl, rfl⟩,
    ⟨ticking (at_ v23 1 7), _, _, .eof 0, rfl, rfl, rfl, rfl⟩,
    ⟨ticking (seqIn (at_ v23 7 1) .idle 0 true 1), _, _, .endStream, rfl, rfl, rfl, rfl, rfl, by decide⟩,
    ⟨ticking (seqIn (at_ v23 7 1) .idle 0 true 0), _, _, .endStream, rfl, rfl, rfl, rfl, by decide⟩,
    ⟨ticking (resuming (at_ v23 4 4) 7 1), _, _, .ref 4 0, rfl, rfl, rfl, rfl⟩⟩

theorem test_witness_TickBeginsByState :
    (let s := asked v23 (.tick true true)
     s.active = .idle ∧ s.calls = [.tick true true] ∧ s.seq.mode = .idle) ∧
    (let s := asked (seqIn v23 .commandProcessing 0 false 0) (.tick false false)
     s.active = .idle ∧ s.calls = [.tick false false] ∧ s.seq.mode = .commandProcessing ∧ s.csd.status = .running) ∧
    (let s := asked (seqIn (ended v23) .commandProcessing 0 false 0) (.tick false false)
     s.active = .idle ∧ s.calls = [.tick false false] ∧ s.seq.mode = .commandProcessing ∧
       s.csd.status ≠ .running) := by decide

/-- A budget that just fits the last frame, one frame too many, and no buffer at all. -/
theorem test_witness_WaitingRendersWhatFits :
    (let s := asked (seqIn (lent v23 64) .waiting 1 true 63) (.tick false false)
     s.active = .idle ∧ s.calls = [.tick false false] ∧ s.seq.mode = .waiting ∧
       (∃ t, render 1 63 { s with calls := [] } = .next t) ∧ s.seq.budget ≤ s.params.block - s.seq.cursor) ∧
    (let s := asked (seqIn (lent v23 64) .waiting 2 true 63) (.tick false false)
     s.active = .idle ∧ s.calls = [.tick false false] ∧ s.seq.mode = .waiting ∧
       (∃ t, render 1 63 { s with calls := [] } = .next t) ∧ s.params.block - s.seq.cursor < s.seq.budget ∧
       s.seq.haveBuf = true) ∧
    (let s := asked (seqIn v23 .waiting 1 false 0) (.tick false false)
     s.active = .idle ∧ s.calls = [.tick false false] ∧ s.seq.mode = .waiting ∧
       (∃ t, render 0 0 { s with calls := [] } = .next t) ∧ 0 < s.seq.budget ∧ s.seq.haveBuf = false) :=
  ⟨⟨rfl, rfl, rfl, ⟨_, rfl⟩, by decide⟩, ⟨rfl, rfl, rfl, ⟨_, rfl⟩, by decide, rfl⟩,
    ⟨rfl, rfl, rfl, ⟨_, rfl⟩, by decide, rfl⟩⟩

theorem test_witness_SinkAnswersMovePlayback :
    (∀ granted, (asked (seqIn v23 .bufferWaiting 40 false 0) (.tick granted false)).seq.mode = .bufferWaiting ∧
      (asked (seqIn v23 .bufferWaiting 40 false 0) (.tick granted false)).active = .idle ∧
      (asked (seqIn v23 .bufferWaiting 40 false 0) (.tick granted false)).calls = [.tick granted false]) ∧
    (∀ allIdle, (asked (seqIn v23 .ending 0 true 0) (.tick false allIdle)).seq.mode = .ending ∧
      (asked (seqIn v23 .ending 0 true 0) (.tick false allIdle)).active = .idle ∧
      (asked (seqIn v23 .ending 0 true 0) (.tick false allIdle)).calls = [.tick false allIdle]) := by decide

end Sys2Proof.Tests
end

/-! ## The encoding: how many bytes a command takes (30_encoding R102) -/

namespace Sys2Proof

theorem commandLength_eq_three_iff (b : Byte) : commandLength b = 3 ↔ 0x08 ≤ b.toNat ∧ b.toNat ≤ 0x37 := by
  simp [commandLength]

theorem commandLength_eq_one_iff (b : Byte) : commandLength b = 1 ↔ ¬(0x08 ≤ b.toNat ∧ b.toNat ≤ 0x37) := by
  simp [commandLength]

/-- A one-byte command leaves every byte after its first. -/
theorem decode_cons_of_commandLength_eq_one {b : Byte} (h : commandLength b = 1) (rest : List Byte) :
    decode (b :: rest) = .ok (decodeCommand b 0 0, rest) := by
  simp [decode, h]

/-- A three-byte command takes the two bytes after its first as operands. -/
theorem decode_cons_of_commandLength_eq_three {b : Byte} (h : commandLength b = 3) (lo hi : Byte) (rest : List Byte) :
    decode (b :: lo :: hi :: rest) = .ok (decodeCommand b lo hi, rest) := by
  simp [decode, h]

/-- Settles O3: `decode` consumes `commandLength b` bytes, and that length is 3 exactly on 0x08..0x37. -/
theorem firstByteTellsLength : Obligations.FirstByteTellsLength := by
  intro b lo hi rest
  constructor
  · intro hlong
    have hlen : commandLength b = 3 := (commandLength_eq_three_iff b).mpr hlong
    exact ⟨_, decode_cons_of_commandLength_eq_three hlen lo hi rest⟩
  · intro hshort
    have hlen : commandLength b = 1 := (commandLength_eq_one_iff b).mpr hshort
    exact ⟨_, decode_cons_of_commandLength_eq_one hlen (lo :: hi :: rest)⟩

end Sys2Proof

/-! ## The fetch of a loop marker, LOOP, and END's jump (41_stream_control R131, R133, R135) -/

namespace Sys2Proof

/-- A LATCH is never a marker, whatever its register field. -/
theorem decodeLatch_ne_loop (r : BitVec 3) (n : BitVec 4) : decodeLatch r n ≠ .loop := by
  unfold decodeLatch
  split <;> exact Instr.noConfusion

/-- 0x01 is the only first byte that spells LOOP (41_stream_control R131, R135). -/
theorem eq_one_of_decodeCommand_eq_loop {b lo hi : Byte} (h : decodeCommand b lo hi = .loop) : b = 0x01 := by
  unfold decodeCommand at h
  split_ifs at h with _ _ _ hone
  · exact absurd h (decodeLatch_ne_loop _ _)
  · exact BitVec.eq_of_toNat_eq hone

end Sys2Proof

namespace Sys2Proof.Machine

/-- A command's first byte lies at its mark, and consuming it leaves `pos` one past the mark. -/
theorem fetch_markCommand_ok {s t : State} {b : Byte} (h : fetch (markCommand s) = .ok (b, t)) :
    b = memRead t.stream t.csd.cmdAt ∧ t.csd.pos = t.csd.cmdAt + 1 := by
  obtain ⟨-, -, rfl, rfl⟩ := fetch_ok h
  rw [restoreRegion_markCommand]
  exact ⟨rfl, rfl⟩

/-- A command fetch touches neither the stream nor `loop_valid`. -/
theorem fetchCommand_ok_keeps_stream_loopValid {s u : State} {i : Instr} (h : fetchCommand s = .ok (i, u)) :
    u.stream = s.stream ∧ u.csd.loopValid = s.csd.loopValid := by
  obtain ⟨p, r, v, c, rfl⟩ := fetchCommand_ok_frame h
  exact ⟨rfl, rfl⟩

/-- A fetched LOOP is the byte 0x01 at the command's mark, and the next byte to fetch is the one after it: the marker is
one byte long, so no second Fetch moved `pos`. -/
theorem fetchCommand_loop {s u : State} (h : fetchCommand s = .ok (.loop, u)) :
    memRead s.stream u.csd.cmdAt = 0x01 ∧ u.csd.pos = u.csd.cmdAt + 1 := by
  obtain ⟨hstream, -⟩ := fetchCommand_ok_keeps_stream_loopValid h
  obtain ⟨b, t, hfirst, ⟨-, hloop, rfl⟩ | ⟨hlen, lo, hi, -, -, -, hloop⟩⟩ := fetchCommand_ok h
  · obtain ⟨hread, hpos⟩ := fetch_markCommand_ok hfirst
    rw [← hstream, ← hread]
    exact ⟨eq_one_of_decodeCommand_eq_loop hloop.symm, hpos⟩
  · have hone : b = 0x01 := eq_one_of_decodeCommand_eq_loop hloop.symm
    exact absurd (by rw [hone]; decide) hlen

/-- LOOP with no loop context takes the snapshot and emits LoopStart (R135). -/
theorem exec_loop_of_not_loopValid {s : State} (h : s.csd.loopValid = false) :
    exec .loop s = .next (emit .loopStart (captureLoop s)) := by
  simp [exec, execLoop, h]

/-- END with a loop context jumps to it and yields nothing (R133). -/
theorem exec_endStream_of_loopValid {s : State} (h : s.csd.loopValid = true) :
    exec .endStream s = .next (yieldNothing (jumpLoop s)) := by
  simp [exec, execEnd, h]

/-- With an operation in progress, a step delivers what the fetched command yields. -/
theorem step_of_fetchCommand_ok {s u v : State} {i : Instr} (ha : s.active ≠ .idle)
    (hf : fetchCommand s = .ok (i, u)) (he : exec i u = .next v) : step s = .next (deliver v) := by
  simp [step_active ha, decodeStep, hf, he]

/-- A step that fetches the first LOOP sets CSD's loop context to the byte after the marker and yields LoopStart. -/
theorem step_first_loop {s u : State} (ha : s.active ≠ .idle) (hv : s.csd.loopValid = false)
    (hf : fetchCommand s = .ok (.loop, u)) :
    ∃ t, step s = .next t ∧ t.csd = { u.csd with
      loopPos := u.csd.cmdAt + 1, loopRem := u.csd.rem, loopValid := true, yielded := .event .loopStart } := by
  obtain ⟨-, hpos⟩ := fetchCommand_loop hf
  obtain ⟨-, hkept⟩ := fetchCommand_ok_keeps_stream_loopValid hf
  have hexec := exec_loop_of_not_loopValid (hkept.trans hv)
  obtain ⟨hcsd, -⟩ := deliver_frame (emit .loopStart (captureLoop u))
  refine ⟨_, step_of_fetchCommand_ok ha hf hexec, ?_⟩
  rw [hcsd, ← hpos]
  rfl

/-- END with a loop context, where it answers a next state, leaves the pair at the snapshot. -/
theorem endStream_pair_of_loopValid {v w : State} (hv : v.csd.loopValid = true) (he : exec .endStream v = .next w) :
    w.csd.pos = v.csd.loopPos ∧ w.csd.rem = v.csd.loopRem := by
  rw [exec_endStream_of_loopValid hv] at he
  cases he
  exact ⟨rfl, rfl⟩

/-- Settles O17: the marker's Fetch leaves `pos` one past it, the snapshot saves that `pos`, END's jump goes there. -/
theorem firstLoopCapturesThePair : Obligations.FirstLoopCapturesThePair := by
  constructor
  · intro s hv
    exact exec_loop_of_not_loopValid hv
  · intro s u ha hv hf
    obtain ⟨hmarker, -⟩ := fetchCommand_loop hf
    obtain ⟨t, hstep, hcsd⟩ := step_first_loop ha hv hf
    refine ⟨hmarker, t, hstep, hcsd, ?_⟩
    intro v w hvalid hpos hrem hend
    obtain ⟨hwpos, hwrem⟩ := endStream_pair_of_loopValid hvalid hend
    rw [hwpos, hwrem, hpos, hrem, hcsd]
    exact ⟨rfl, rfl⟩

end Sys2Proof.Machine

/-! ## What Render reads (43_synthesis R198) -/

namespace Sys2Proof.Machine

/-- A RenderTick steps SYN and leaves CFG and RF, so the next tick reads the same two. -/
theorem renderTick_inputs {k : Nat} {s t : State} (h : renderTick k s = .next t) :
    t.params = s.params ∧ t.rf = s.rf ∧ t.syn = synTick s.params s.rf s.syn := by
  obtain ⟨hframe, -⟩ := renderTick_frame h
  rw [hframe]
  exact ⟨rfl, rfl, rfl⟩

/-- A Render of `n` frames steps SYN `n` times under the CFG and RF it began with. -/
theorem render_syn {n dst : Nat} {s t : State} (h : render n dst s = .next t) :
    t.syn = (synTick s.params s.rf)^[n] s.syn := by
  induction n generalizing dst s with
  | zero => cases h; rfl
  | succ n ih =>
    obtain ⟨u, htick, hrest⟩ := andThen_eq_next.mp h
    obtain ⟨hp, hr, hy⟩ := renderTick_inputs htick
    rw [ih hrest, hp, hr, hy, Function.iterate_succ_apply]

/-- What a Render of `n` frames from frame `dst` on adds to slot `i`: a function of CFG, RF and SYN. -/
def renderAdds (p : Params) (rf : RegFile) : Nat → Nat → Synth → Nat → Int
  | 0, _, _, _ => 0
  | n + 1, dst, syn, i => tickAdds p rf syn dst i + renderAdds p rf n (dst + 1) (synTick p rf syn) i

/-- A Render that completes changes each slot by `renderAdds`, whatever the slot held. -/
theorem render_adds {n dst : Nat} {s t : State} (h : render n dst s = .next t) (hw : Cells.wf s.pcm.cells = true)
    (i : Nat) : readSlot t.pcm i = readSlot s.pcm i + renderAdds s.params s.rf n dst s.syn i := by
  induction n generalizing dst s with
  | zero => cases h; exact (add_zero _).symm
  | succ n ih =>
    obtain ⟨u, htick, hrest⟩ := andThen_eq_next.mp h
    obtain ⟨hp, hr, hy⟩ := renderTick_inputs htick
    rw [ih hrest (renderTick_keeps_wf htick hw), renderTick_adds htick hw, hp, hr, hy, renderAdds, add_assoc]

/-- Settles O55: both SYN's next state and the added values are functions of CFG, RF and SYN (`render_syn`, `render_adds`);
completion and the samples depend on the buffer besides (`render_congr`). -/
theorem renderReadsOnlyItsInputs : Obligations.RenderReadsOnlyItsInputs := by
  intro n dst s s' hp hr hy
  constructor
  · intro t t' h h'
    constructor
    · rw [render_syn h, render_syn h', hp, hr, hy]
    · intro hw hw' i
      rw [render_adds h hw, render_adds h' hw', hp, hr, hy, add_sub_cancel_left, add_sub_cancel_left]
  · intro hb t h
    exact ⟨_, render_congr hp hr hy hb h, rfl, rfl⟩

end Sys2Proof.Machine

/-! ## The encoding: decoder and encoder are inverse to each other (30_encoding R91, R92, R104) -/

namespace Sys2Proof

/-- Every first byte outside the REF range spells a well-formed command of that one byte. -/
theorem decodeCommand_short (b : Byte) (h : commandLength b = 1) :
    (decodeCommand b 0 0).wellFormed = true ∧ encode (decodeCommand b 0 0) = [b] := by
  revert b
  decide

/-- A first byte in the REF range spells a REF whose operands are the bytes read. -/
theorem decodeCommand_long {b : Byte} (h : commandLength b ≠ 1) (lo hi : Byte) :
    decodeCommand b lo hi = .ref ((b - 4).extractLsb' 0 6) (hi ++ lo) := by
  have hb : 0x08 ≤ b.toNat ∧ b.toNat ≤ 0x37 := by simpa [commandLength_eq_one_iff] using h
  unfold decodeCommand
  simp only [show ¬0x80 ≤ b.toNat by omega, show ¬0x40 ≤ b.toNat by omega, show ¬b.toNat = 0 by omega,
    show ¬b.toNat = 1 by omega, show ¬b.toNat ≤ 0x07 by omega, hb.2, if_true, if_false]

/-- The REF byte of a first byte in the REF range is that byte, and the length it carries is 4..51. -/
theorem refByte_of_long (b : Byte) (h : commandLength b ≠ 1) :
    refByte ((b - 4).extractLsb' 0 6) = b ∧ 4 ≤ ((b - 4).extractLsb' 0 6).toNat ∧
      ((b - 4).extractLsb' 0 6).toNat ≤ 51 := by
  revert b
  decide

theorem encode_decodeCommand_long {b : Byte} (h : commandLength b ≠ 1) (lo hi : Byte) :
    (decodeCommand b lo hi).wellFormed = true ∧ encode (decodeCommand b lo hi) = [b, lo, hi] := by
  obtain ⟨hbyte, hlow, hhigh⟩ := refByte_of_long b h
  have hlo : (hi ++ lo).extractLsb' 0 8 = lo := BitVec.extractLsb'_append_eq_right
  have hhi : (hi ++ lo).extractLsb' 8 8 = hi := BitVec.extractLsb'_append_eq_left
  rw [decodeCommand_long h]
  exact ⟨decide_eq_true ⟨hlow, hhigh⟩, by simp only [encode, hbyte, hlo, hhi]⟩

/-- What a successful decode is: one byte outside the REF range, three bytes inside. -/
theorem decode_ok {bytes rest : List Byte} {i : Instr} (h : decode bytes = .ok (i, rest)) :
    (∃ b, commandLength b = 1 ∧ bytes = b :: rest ∧ i = decodeCommand b 0 0) ∨
      ∃ b lo hi, commandLength b ≠ 1 ∧ bytes = b :: lo :: hi :: rest ∧ i = decodeCommand b lo hi := by
  unfold decode at h
  split at h
  · cases h
  · next b tail =>
    split at h
    · next hlen => cases h; exact .inl ⟨b, hlen, rfl, rfl⟩
    · next hlen =>
      split at h
      · next lo hi rest' => cases h; exact .inr ⟨b, lo, hi, hlen, rfl, rfl⟩
      · cases h

/-- Settles O2: bytes outside the REF range one at a time, a REF by its length byte and its two offset bytes. -/
theorem decodedBytesEncodeBack : Obligations.DecodedBytesEncodeBack := by
  intro bytes i rest h
  obtain ⟨b, hlen, rfl, rfl⟩ | ⟨b, lo, hi, hlen, rfl, rfl⟩ := decode_ok h
  · obtain ⟨hwf, henc⟩ := decodeCommand_short b hlen
    exact ⟨hwf, by rw [henc]; rfl⟩
  · obtain ⟨hwf, henc⟩ := encode_decodeCommand_long hlen lo hi
    exact ⟨hwf, by rw [henc]; rfl⟩

/-- A byte that is one command alone decodes to it, whatever follows. -/
theorem decode_byte {b : Byte} {i : Instr} (h : commandLength b = 1 ∧ decodeCommand b 0 0 = i) (rest : List Byte) :
    decode ([b] ++ rest) = .ok (i, rest) := by
  rw [List.singleton_append, decode_cons_of_commandLength_eq_one h.1, h.2]

theorem decodeCommand_latchByte (r : BitVec 3) (n : BitVec 4) :
    commandLength (latchByte r n) = 1 ∧ decodeCommand (latchByte r n) 0 0 = decodeLatch r n := by
  revert r n
  decide

theorem decodeCommand_dataByte (d : BitVec 6) :
    commandLength (dataByte d) = 1 ∧ decodeCommand (dataByte d) 0 0 = .data d := by
  revert d
  decide

theorem decodeCommand_rsvdByte (k : BitVec 3) (hk : 2 ≤ k.toNat) :
    commandLength (rsvdByte k) = 1 ∧ decodeCommand (rsvdByte k) 0 0 = .rsvd k := by
  revert k
  decide

theorem decodeCommand_eofByte (nnn : BitVec 3) :
    commandLength (eofByte nnn) = 1 ∧ decodeCommand (eofByte nnn) 0 0 = .eof nnn := by
  revert nnn
  decide

theorem refByte_range (len : BitVec 6) (h : 4 ≤ len.toNat ∧ len.toNat ≤ 51) :
    commandLength (refByte len) = 3 ∧ (refByte len - 4).extractLsb' 0 6 = len := by
  revert len
  decide

/-- A 16-bit offset is its high byte over its low byte. -/
theorem append_offset_bytes (off : BitVec 16) : off.extractLsb' 8 8 ++ off.extractLsb' 0 8 = off := by
  rw [BitVec.extractLsb'_append_extractLsb'_eq_extractLsb' (by rfl)]
  exact BitVec.extractLsb'_eq_self

/-- Settles O1: one case per mnemonic; RSVD and REF need their operand ranges. -/
theorem decodeOfEncodeIsTheCommand : Obligations.DecodeOfEncodeIsTheCommand := by
  intro i rest hwf
  cases i with
  | latchTone0 n => exact decode_byte (decodeCommand_latchByte 0 n) rest
  | latchAtt0 n => exact decode_byte (decodeCommand_latchByte 1 n) rest
  | latchTone1 n => exact decode_byte (decodeCommand_latchByte 2 n) rest
  | latchAtt1 n => exact decode_byte (decodeCommand_latchByte 3 n) rest
  | latchTone2 n => exact decode_byte (decodeCommand_latchByte 4 n) rest
  | latchAtt2 n => exact decode_byte (decodeCommand_latchByte 5 n) rest
  | latchNctrl n => exact decode_byte (decodeCommand_latchByte 6 n) rest
  | latchNatt n => exact decode_byte (decodeCommand_latchByte 7 n) rest
  | data d => exact decode_byte (decodeCommand_dataByte d) rest
  | endStream => exact decode_byte (b := 0x00) ⟨rfl, rfl⟩ rest
  | loop => exact decode_byte (b := 0x01) ⟨rfl, rfl⟩ rest
  | rsvd k => exact decode_byte (decodeCommand_rsvdByte k (by simpa [Instr.wellFormed] using hwf)) rest
  | ref len off =>
    obtain ⟨hlen, hop⟩ := refByte_range len (by simpa [Instr.wellFormed] using hwf)
    have hcmd : decodeCommand (refByte len) (off.extractLsb' 0 8) (off.extractLsb' 8 8) = .ref len off := by
      rw [decodeCommand_long (by omega), hop, append_offset_bytes]
    simp only [encode, List.cons_append, List.nil_append]
    rw [decode_cons_of_commandLength_eq_three hlen, hcmd]
  | eof nnn => exact decode_byte (decodeCommand_eofByte nnn) rest

/-- Settles O4: ten closed words. -/
theorem wordsFromTheSpecDecode : Obligations.WordsFromTheSpecDecode := by
  unfold Obligations.WordsFromTheSpecDecode
  decide

end Sys2Proof

/-! ## The commands: one equation each (40_register_commands, 41_stream_control, 42_back_reference) -/

namespace Sys2Proof.Machine

open Sys2Proof.Safety

theorem latchLow_eq_ofNat (old : BitVec 10) (n : BitVec 4) :
    latchLow old n = BitVec.ofNat 10 (16 * (old.toNat / 16) + n.toNat) := by
  rw [← latchLow_toNat, BitVec.ofNat_toNat, BitVec.setWidth_eq]

theorem dataHigh_eq_ofNat (old : BitVec 10) (d : BitVec 6) :
    dataHigh old d = BitVec.ofNat 10 (16 * d.toNat + old.toNat % 16) := by
  rw [← dataHigh_toNat, BitVec.ofNat_toNat, BitVec.setWidth_eq]

/-- A nibble goes into the widest register and back without loss. -/
theorem nibble_setWidth (n : BitVec 4) : (n.setWidth 10).setWidth 4 = n := by
  rw [BitVec.setWidth_setWidth_of_le _ (by decide), BitVec.setWidth_eq]

theorem nctrlValue_setWidth (n : BitVec 4) : ((nctrlValue n).setWidth 10).setWidth 3 = nctrlValue n := by
  rw [BitVec.setWidth_setWidth_of_le _ (by decide), BitVec.setWidth_eq]

theorem nctrlValue_toNat (n : BitVec 4) : (nctrlValue n).toNat = n.toNat % 8 := by
  simp [nctrlValue]

theorem dataByte_eq_ofNat (d : BitVec 6) : dataByte d = BitVec.ofNat 8 (0x40 + d.toNat) := by
  revert d
  decide

theorem rsvdByte_eq_ofNat (k : BitVec 3) : rsvdByte k = BitVec.ofNat 8 k.toNat := by
  revert k
  decide

theorem refByte_eq_ofNat (len : BitVec 6) : refByte len = BitVec.ofNat 8 (len.toNat + 4) := by
  revert len
  decide

/-- Settles O10: LATCH to a tone register is `latchLow`, whose value is `latchLow_eq_ofNat`. -/
theorem latchToneReplacesLowNibble : Obligations.LatchToneReplacesLowNibble := by
  intro s n
  simp only [← latchLow_eq_ofNat]
  exact ⟨rfl, rfl, rfl⟩

/-- Settles O11: the four attenuation registers have the nibble's width. -/
theorem latchAttenuationSetsWholeRegister : Obligations.LatchAttenuationSetsWholeRegister := by
  intro s n
  have hv := nibble_setWidth n
  simp only [exec, execLatchAtt0, execLatchAtt1, execLatchAtt2, execLatchNatt, latchAtt, writeAndReport, emit,
    setLatched, writeReg, readReg, hv, BitVec.ofNat_toNat, and_self]

/-- Settles O12: the register takes `nctrlValue`, and the seed is written under LFSR_RESET_ON_NCTRL. -/
theorem latchNoiseControlTakesThreeBits : Obligations.LatchNoiseControlTakesThreeBits := by
  intro s n
  have hv := nctrlValue_setWidth n
  simp only [← nctrlValue_toNat, BitVec.ofNat_toNat, BitVec.setWidth_eq]
  simp only [exec, execLatchNctrl, writeAndReport, emit, setLatched, reseedOnNctrl, writeReg, readReg, hv]
  rfl

theorem exec_data_of_tone {s : State} {r : Reg} (hl : s.csd.latched = some r) (hr : isTone r = true) (d : BitVec 6) :
    exec (.data d) s = .next (writeLatchedHigh r d s) := by
  simp [exec, execData, hl, hr]

theorem exec_data_of_not_tone {s : State} (h : ∀ r, s.csd.latched = some r → isTone r = false) (d : BitVec 6) :
    exec (.data d) s = .next (raiseNoToneLatch d s) := by
  simp only [exec, execData]
  split
  · next r hr => simp [h r hr]
  · rfl

theorem isTone_iff_mem (r : Reg) : isTone r = true ↔ some r ∈ [some Reg.tone0, some Reg.tone1, some Reg.tone2] := by
  cases r <;> decide

/-- Settles O13: the three tone registers, and every other content of `latched`. -/
theorem dataWritesTheLatchedToneOrFaults : Obligations.DataWritesTheLatchedToneOrFaults := by
  intro s d
  simp only [← dataHigh_eq_ofNat, ← dataByte_eq_ofNat]
  refine ⟨fun h => exec_data_of_tone h rfl d, fun h => exec_data_of_tone h rfl d,
    fun h => exec_data_of_tone h rfl d, ?_⟩
  intro h
  refine exec_data_of_not_tone (fun r hr => ?_) d
  exact Bool.eq_false_iff.mpr fun htone => h (hr ▸ (isTone_iff_mem r).mp htone)

theorem writeAndReport_tone {r : Reg} (h : isTone r = true) (v : BitVec 10) (s : State) :
    readReg (writeAndReport r v s).rf r = v ∧ (writeAndReport r v s).csd.yielded = .event (.registerWrite r v) := by
  have hread := readReg_writeReg_tone h s.rf v
  exact ⟨hread, by rw [writeAndReport_csd, hread]⟩

/-- LATCH then DATA at one tone register compose its whole period (40_register_commands R129). -/
theorem latch_then_data {r : Reg} (hr : isTone r = true) {s u : State} {n : BitVec 4} (d : BitVec 6)
    (hrf : u.rf = (latchTone r n s).rf) (hl : u.csd.latched = (latchTone r n s).csd.latched) :
    (latchTone r n s).csd.yielded =
        .event (.registerWrite r (BitVec.ofNat 10 (16 * ((readReg s.rf r).toNat / 16) + n.toNat))) ∧
      ∃ v, exec (.data d) u = .next v ∧ (readReg v.rf r).toNat = 16 * d.toNat + n.toNat ∧
        v.csd.yielded = .event (.registerWrite r (readReg v.rf r)) := by
  obtain ⟨hlow, hfirst⟩ := writeAndReport_tone hr (latchLow (readReg s.rf r) n) (setLatched r s)
  obtain ⟨hhigh, hsecond⟩ := writeAndReport_tone hr (dataHigh (readReg u.rf r) d) u
  have hperiod : readReg u.rf r = latchLow (readReg s.rf r) n := by rw [hrf]; exact hlow
  refine ⟨hfirst.trans (by rw [latchLow_eq_ofNat]), _, exec_data_of_tone (by rw [hl]; rfl) hr d, ?_, ?_⟩
  · rw [writeLatchedHigh, hhigh, hperiod, dataHigh_latchLow_toNat]
  · rw [writeLatchedHigh, hhigh, hsecond]

/-- Settles O14: `latch_then_data` at the three tone registers. -/
theorem latchThenDataComposesThePeriod : Obligations.LatchThenDataComposesThePeriod := by
  intro s u n d
  refine ⟨?_, ?_, ?_⟩
  · rintro _ ⟨⟩ hrf hl
    exact latch_then_data (r := .tone0) rfl d hrf hl
  · rintro _ ⟨⟩ hrf hl
    exact latch_then_data (r := .tone1) rfl d hrf hl
  · rintro _ ⟨⟩ hrf hl
    exact latch_then_data (r := .tone2) rfl d hrf hl

theorem exec_endStream_of_not_loopValid {s : State} (h : s.csd.loopValid = false) :
    exec .endStream s = .next (emit .endOfStream (setEnded s)) := by
  simp [exec, execEnd, h]

/-- Settles O15: the branch of END taken when `loop_valid` is 0. -/
theorem endWithoutLoopContextEndsTheStream : Obligations.EndWithoutLoopContextEndsTheStream :=
  fun _ h => exec_endStream_of_not_loopValid h

/-- Settles O16: the branch of END taken when `loop_valid` is 1. -/
theorem endWithLoopContextJumps : Obligations.EndWithLoopContextJumps :=
  fun _ h => exec_endStream_of_loopValid h

theorem exec_loop_of_loopValid {s : State} (h : s.csd.loopValid = true) :
    exec .loop s = .next (emit .loopStart s) := by
  simp [exec, execLoop, h]

/-- Settles O18: LOOP captures nothing when `loop_valid` is 1. -/
theorem laterLoopKeepsTheContext : Obligations.LaterLoopKeepsTheContext :=
  fun _ h => exec_loop_of_loopValid h

/-- Settles O19: RSVD k is the byte k. -/
theorem reservedByteFaults : Obligations.ReservedByteFaults := by
  intro s k
  rw [← rsvdByte_eq_ofNat]
  rfl

/-- Settles O20: EOF is `advanceFrames` and then the event, by definition. -/
theorem eofAdvancesTheFrameCounter : Obligations.EofAdvancesTheFrameCounter :=
  fun _ _ => rfl

theorem exec_ref_dangling {s : State} {off : BitVec 16} (h : s.len ≤ off.toNat) (len : BitVec 6) :
    exec (.ref len off) s = .next (raiseFault .msDanglingRef s.csd.cmdAt (some (refByte len)) s) := by
  simp [exec, execRef, h]

theorem exec_ref_nested {s : State} {off : BitVec 16} (h : off.toNat < s.len) (hv : s.csd.resumeValid = true)
    (len : BitVec 6) :
    exec (.ref len off) s = .next (raiseFault .msNestedRef s.csd.cmdAt (some (refByte len)) s) := by
  simp [exec, execRef, Nat.not_le.mpr h, hv]

theorem exec_ref_enters {s : State} {off : BitVec 16} (h : off.toNat < s.len) (hv : s.csd.resumeValid = false)
    (len : BitVec 6) :
    exec (.ref len off) s = .next (yieldNothing (enterRegion off.toNat len.toNat s)) := by
  simp [exec, execRef, Nat.not_le.mpr h, hv]

/-- Settles O21: dangling is tested before nested. -/
theorem refFaultsOrEntersTheRegion : Obligations.RefFaultsOrEntersTheRegion := by
  intro s len off
  rw [← refByte_eq_ofNat]
  exact ⟨fun h => exec_ref_dangling h len, fun h hv => exec_ref_nested h hv len,
    fun h hv => exec_ref_enters h hv len⟩

/-! ### What a command can do, said once -/

/-- The next state a command leads to. -/
inductive CommandEffect (s : State) : Instr → State → Prop where
  /-- A LATCH but LATCH NCTRL writes the register it latches. -/
  | latch {i : Instr} (r : Reg) (v : BitVec 10) (h : isLatch i = true) :
      CommandEffect s i (writeAndReport r v (setLatched r s))
  | latchNctrl (n : BitVec 4) (v : BitVec 10) :
      CommandEffect s (.latchNctrl n) (writeAndReport .nctrl v (reseedOnNctrl (setLatched .nctrl s)))
  | data (d : BitVec 6) (r : Reg) (v : BitVec 10) : CommandEffect s (.data d) (writeAndReport r v s)
  /-- DATA, RSVD or REF raises a fault. -/
  | fault (i : Instr) (c : FaultCode) (o : Nat) (f : Option Byte) : CommandEffect s i (raiseFault c o f s)
  | jump (h : s.csd.loopValid = true) : CommandEffect s .endStream (yieldNothing (jumpLoop s))
  | ended (h : s.csd.loopValid = false) : CommandEffect s .endStream (emit .endOfStream (setEnded s))
  | capture (h : s.csd.loopValid = false) : CommandEffect s .loop (emit .loopStart (captureLoop s))
  | loopAgain (h : s.csd.loopValid = true) : CommandEffect s .loop (emit .loopStart s)
  | enter (len : BitVec 6) (off : BitVec 16) (h : off.toNat < s.len) (hv : s.csd.resumeValid = false) :
      CommandEffect s (.ref len off) (yieldNothing (enterRegion off.toNat len.toNat s))
  | eof (nnn : BitVec 3) :
      CommandEffect s (.eof nnn) (emit (.endOfFrame (eofFrames nnn)) (advanceFrames (eofFrames nnn) s))

/-- Every command completes, with an effect of its own. -/
theorem exec_effect (i : Instr) (s : State) : ∃ t, exec i s = .next t ∧ CommandEffect s i t := by
  cases i with
  | latchTone0 n => exact ⟨_, rfl, .latch .tone0 _ rfl⟩
  | latchAtt0 n => exact ⟨_, rfl, .latch .att0 _ rfl⟩
  | latchTone1 n => exact ⟨_, rfl, .latch .tone1 _ rfl⟩
  | latchAtt1 n => exact ⟨_, rfl, .latch .att1 _ rfl⟩
  | latchTone2 n => exact ⟨_, rfl, .latch .tone2 _ rfl⟩
  | latchAtt2 n => exact ⟨_, rfl, .latch .att2 _ rfl⟩
  | latchNctrl n => exact ⟨_, rfl, .latchNctrl n _⟩
  | latchNatt n => exact ⟨_, rfl, .latch .natt _ rfl⟩
  | data d =>
    by_cases h : ∃ r, s.csd.latched = some r ∧ isTone r = true
    · obtain ⟨r, hl, hr⟩ := h
      exact ⟨_, exec_data_of_tone hl hr d, .data d r _⟩
    · have hnot : ∀ r, s.csd.latched = some r → isTone r = false := by simpa using h
      exact ⟨_, exec_data_of_not_tone hnot d, .fault _ _ _ _⟩
  | endStream =>
    cases h : s.csd.loopValid with
    | true => exact ⟨_, exec_endStream_of_loopValid h, .jump h⟩
    | false => exact ⟨_, exec_endStream_of_not_loopValid h, .ended h⟩
  | loop =>
    cases h : s.csd.loopValid with
    | true => exact ⟨_, exec_loop_of_loopValid h, .loopAgain h⟩
    | false => exact ⟨_, exec_loop_of_not_loopValid h, .capture h⟩
  | rsvd k => exact ⟨_, rfl, .fault _ _ _ _⟩
  | ref len off =>
    by_cases hoff : off.toNat < s.len
    · cases hv : s.csd.resumeValid with
      | true => exact ⟨_, exec_ref_nested hoff hv len, .fault _ _ _ _⟩
      | false => exact ⟨_, exec_ref_enters hoff hv len, .enter len off hoff hv⟩
    · exact ⟨_, exec_ref_dangling (Nat.not_lt.mp hoff) len, .fault _ _ _ _⟩
  | eof nnn => exact ⟨_, rfl, .eof nnn⟩

theorem effect_of_exec {i : Instr} {s t : State} (h : exec i s = .next t) : CommandEffect s i t := by
  obtain ⟨u, hu, heffect⟩ := exec_effect i s
  rw [hu] at h
  cases h
  exact heffect

/-- Settles O22: each command has its effect. -/
theorem everyCommandCompletes : Obligations.EveryCommandCompletes := by
  intro i s
  obtain ⟨t, h, -⟩ := exec_effect i s
  exact ⟨t, h⟩

/-- A command writes RF, CSD and the shift register, and nothing else. -/
theorem CommandEffect.frame {i : Instr} {s t : State} (h : CommandEffect s i t) :
    ∃ x, t = { s with rf := t.rf, csd := t.csd, syn := { s.syn with lfsr := x } } := by
  cases h <;> exact ⟨_, rfl⟩

/-- Settles O23: the frame of each effect. -/
theorem commandsLeaveTheRestAlone : Obligations.CommandsLeaveTheRestAlone := by
  intro i s t h
  cases effect_of_exec h with
  | latch r v hi => simp [hi]
  | latchNctrl n v => simp [isLatch]
  | data d r v => simp [isData]
  | fault | jump | ended | capture | loopAgain | enter | eof => simp

end Sys2Proof.Machine

/-! ## Fetch and the fetch of a command (42_back_reference R151, R152, R154, R164) -/

namespace Sys2Proof.Machine

@[simp] theorem restoreRegion_stream (s : State) : (restoreRegion s).stream = s.stream := by
  rw [restoreRegion_eq]

@[simp] theorem restoreRegion_len (s : State) : (restoreRegion s).len = s.len := by
  rw [restoreRegion_eq]

/-- Fetch, its two bounds tests as one. -/
theorem fetch_eq (s : State) :
    fetch s = if (restoreRegion s).csd.rem = 0 ∨ s.len ≤ (restoreRegion s).csd.pos then .error (restoreRegion s)
      else .ok (memRead s.stream (restoreRegion s).csd.pos, { restoreRegion s with csd := { (restoreRegion s).csd with
        pos := (restoreRegion s).csd.pos + 1, rem := (restoreRegion s).csd.rem - 1 } }) := by
  unfold fetch
  by_cases hrem : (restoreRegion s).csd.rem = 0
  · simp [hrem]
  · by_cases hlen : s.len ≤ (restoreRegion s).csd.pos <;> simp [hrem, hlen]

/-- Settles O5: `fetch_eq` with the restore written out. -/
theorem fetchIsResumeAware : Obligations.FetchIsResumeAware := by
  intro s
  rw [fetch_eq, restoreRegion_eq]

/-- Nothing is restored unless the region is exhausted and a resume context is held. -/
theorem restoreRegion_of_not_due {s : State} (h : ¬(s.csd.rem = 0 ∧ s.csd.resumeValid = true)) : restoreRegion s = s :=
  if_neg h

theorem restoreRegion_of_due {s : State} (hrem : s.csd.rem = 0) (hv : s.csd.resumeValid = true) :
    restoreRegion s = { s with csd := { s.csd with
      pos := s.csd.resumePos, rem := s.csd.resumeRem, resumeValid := false } } :=
  if_pos ⟨hrem, hv⟩

/-- The Fetch after an exhausted region reads at the return position. -/
theorem fetch_restored {s : State} (hrem : s.csd.rem = 0) (hv : s.csd.resumeValid = true) (hr : s.csd.resumeRem ≠ 0)
    (hp : s.csd.resumePos < s.len) :
    fetch s = .ok (memRead s.stream s.csd.resumePos, { s with csd := { s.csd with
      pos := s.csd.resumePos + 1, rem := s.csd.resumeRem - 1, resumeValid := false } }) := by
  rw [fetch_eq, restoreRegion_of_due hrem hv, if_neg (not_or.mpr ⟨hr, Nat.not_le.mpr hp⟩)]

/-! ### The fetch of a command from its Fetches -/

theorem fetchCommand_of_short {s t : State} {b : Byte} (h : fetch (markCommand s) = .ok (b, t))
    (hb : commandLength b = 1) : fetchCommand s = .ok (decodeCommand b 0 0, t) := by
  simp only [fetchCommand, h, hb, if_true]

theorem fetchCommand_of_long {s t u v : State} {b lo hi : Byte} (h : fetch (markCommand s) = .ok (b, t))
    (hb : commandLength b ≠ 1) (hlo : fetch t = .ok (lo, u)) (hhi : fetch u = .ok (hi, v)) :
    fetchCommand s = .ok (decodeCommand b lo hi, v) := by
  simp only [fetchCommand, h, hb, hlo, hhi, if_false]

theorem fetchCommand_of_first_error {s t : State} (h : fetch (markCommand s) = .error t) :
    fetchCommand s = .error t := by
  simp only [fetchCommand, h]

theorem fetchCommand_of_low_error {s t u : State} {b : Byte} (h : fetch (markCommand s) = .ok (b, t))
    (hb : commandLength b ≠ 1) (hlo : fetch t = .error u) : fetchCommand s = .error u := by
  simp only [fetchCommand, h, hb, hlo, if_false]

theorem fetchCommand_of_high_error {s t u v : State} {b lo : Byte} (h : fetch (markCommand s) = .ok (b, t))
    (hb : commandLength b ≠ 1) (hlo : fetch t = .ok (lo, u)) (hhi : fetch u = .error v) :
    fetchCommand s = .error v := by
  simp only [fetchCommand, h, hb, hlo, hhi, if_false]

/-- `s` with the decoder past `n` bytes of a command at its position. -/
def pastCommand (n : Nat) (s : State) : State :=
  { s with csd := { s.csd with cmdAt := s.csd.pos, pos := s.csd.pos + n, rem := s.csd.rem - n } }

/-- The Fetch of a command's first byte leaves the decoder one past it. -/
theorem fetch_markCommand {s : State} (hr : (restoreRegion s).csd.rem ≠ 0) (hp : (restoreRegion s).csd.pos < s.len) :
    fetch (markCommand s) =
      .ok (memRead s.stream (restoreRegion s).csd.pos, pastCommand 1 (restoreRegion s)) := by
  have h := fetch_first hr (by simpa using hp)
  rwa [restoreRegion_stream] at h

/-- A one-byte command inside the restored region and the buffer is fetched. -/
theorem fetchCommand_one {s : State} (hr : (restoreRegion s).csd.rem ≠ 0) (hp : (restoreRegion s).csd.pos < s.len)
    (hb : commandLength (memRead s.stream (restoreRegion s).csd.pos) = 1) :
    fetchCommand s = .ok (decodeCommand (memRead s.stream (restoreRegion s).csd.pos) 0 0,
      pastCommand 1 (restoreRegion s)) :=
  fetchCommand_of_short (fetch_markCommand hr hp) hb

/-- A REF inside the restored region and the buffer is fetched. -/
theorem fetchCommand_three {s : State} (hr : 3 ≤ (restoreRegion s).csd.rem)
    (hp : (restoreRegion s).csd.pos + 3 ≤ s.len)
    (hb : commandLength (memRead s.stream (restoreRegion s).csd.pos) ≠ 1) :
    fetchCommand s = .ok (decodeCommand (memRead s.stream (restoreRegion s).csd.pos)
        (memRead s.stream ((restoreRegion s).csd.pos + 1)) (memRead s.stream ((restoreRegion s).csd.pos + 2)),
      pastCommand 3 (restoreRegion s)) := by
  have hfirst := fetch_markCommand (s := s) (by omega) (by omega)
  have hlen := restoreRegion_len s
  rw [← restoreRegion_stream s] at hb hfirst ⊢
  have hlow := fetch_inside (s := pastCommand 1 (restoreRegion s)) (by simp only [pastCommand]; omega)
    (by simp only [pastCommand]; omega)
  exact fetchCommand_of_long hfirst hb hlow
    (fetch_inside (by simp only [pastCommand]; omega) (by simp only [pastCommand]; omega))

theorem commandLength_ne_one_of_ref {b : Byte} (h : 0x08 ≤ b.toNat ∧ b.toNat ≤ 0x37) : commandLength b ≠ 1 :=
  fun h1 => (commandLength_eq_one_iff b).mp h1 h

/-- A first byte fetched from inside its region. -/
theorem fetch_markCommand_inside {s : State} (hr : s.csd.rem ≠ 0) (hp : s.csd.pos < s.len) :
    fetch (markCommand s) = .ok (memRead s.stream s.csd.pos, pastCommand 1 s) := by
  have hrestore : restoreRegion s = s := restoreRegion_of_not_due fun hdue => hr hdue.1
  have h := fetch_markCommand (s := s) (by rwa [hrestore]) (by rwa [hrestore])
  rwa [hrestore] at h

/-- Settles O8: the Fetch that finds the region exhausted reads at the return position, the next one after it. -/
theorem cutReferenceTakesBytesAfterReturn : Obligations.CutReferenceTakesBytesAfterReturn := by
  intro s hv hp href
  have hlong := commandLength_ne_one_of_ref href
  constructor
  · intro hrem hrr hrp
    have hfirst := fetch_markCommand_inside (s := s) (by omega) hp
    have hlow := fetch_restored (s := pastCommand 1 s) (by simp [pastCommand, hrem]) hv
      (by simp only [pastCommand]; omega) (by simp only [pastCommand]; omega)
    exact fetchCommand_of_long hfirst hlong hlow
      (fetch_inside (by simp only [pastCommand]; omega) (by simp only [pastCommand]; omega))
  · intro hrem hp2 hrr hrp
    have hfirst := fetch_markCommand_inside (s := s) (by omega) hp
    have hlow := fetch_inside (s := pastCommand 1 s) (by simp [pastCommand, hrem]) (by simp only [pastCommand]; omega)
    exact fetchCommand_of_long hfirst hlong hlow
      (fetch_restored (by simp [pastCommand, hrem]) hv (by simp only [pastCommand]; omega)
        (by simp only [pastCommand]; omega))

end Sys2Proof.Machine

/-! ## A DecodeStep and the delivery of what it yields (41_stream_control R130, R131, R140) -/

namespace Sys2Proof.Machine

theorem deliver_idle {s : State} (ha : s.active = .idle) : deliver s = s := by
  simp only [deliver, ha]

theorem deliver_nothing {s : State} (hy : s.csd.yielded = .nothing) : deliver s = s := by
  unfold deliver
  rw [hy]
  cases s.active <;> rfl

theorem deliver_nextEvent_event {s : State} {e : Event} (ha : s.active = .nextEvent) (hy : s.csd.yielded = .event e) :
    deliver s = finish (.event e) s := by
  simp only [deliver, ha, hy]

theorem deliver_nextEvent_fault {s : State} {c : FaultCode} {o : Nat} {f : Option Byte} (ha : s.active = .nextEvent)
    (hy : s.csd.yielded = .fault c o f) : deliver s = finish (.malformed c o f) s := by
  simp only [deliver, ha, hy]

theorem deliver_tick_event {s : State} {e : Event} (ha : s.active = .tick) (hy : s.csd.yielded = .event e) :
    deliver s = sequenceEvent e s := by
  simp only [deliver, ha, hy]

theorem deliver_tick_fault {s : State} {c : FaultCode} {o : Nat} {f : Option Byte} (ha : s.active = .tick)
    (hy : s.csd.yielded = .fault c o f) : deliver s = finish .done (stopPlayback (.failed c) s) := by
  simp only [deliver, ha, hy]

/-- A command, its fetch included, writes RF, CSD and the shift register only. -/
theorem command_frame {s t u : State} {i : Instr} (hf : fetchCommand s = .ok (i, t)) (he : exec i t = .next u) :
    ∃ x, u = { s with rf := u.rf, csd := u.csd, syn := { s.syn with lfsr := x } } := by
  obtain ⟨p, r, v, c, rfl⟩ := fetchCommand_ok_frame hf
  exact (effect_of_exec he).frame

theorem command_keeps_active {s t u : State} {i : Instr} (hf : fetchCommand s = .ok (i, t)) (he : exec i t = .next u) :
    u.active = s.active := by
  obtain ⟨x, hu⟩ := command_frame hf he
  rw [hu]

theorem step_of_fetchCommand_error {s t : State} (ha : s.active ≠ .idle) (hf : fetchCommand s = .error t) :
    step s = .next (deliver (raiseFault .msBounds t.csd.pos none t)) := by
  simp only [step_active ha, decodeStep, hf]

theorem nextEvent_ne_idle {s : State} (h : s.active = .nextEvent) : s.active ≠ .idle := by
  rw [h]
  exact Active.noConfusion

theorem tick_ne_idle {s : State} (h : s.active = .tick) : s.active ≠ .idle := by
  rw [h]
  exact Active.noConfusion

/-- Settles O9: `deliver` to NextEvent, yield by yield. -/
theorem nextEventReturnsTheYield : Obligations.NextEventReturnsTheYield := by
  intro s t u i ha hf he
  have hactive : u.active = .nextEvent := (command_keeps_active hf he).trans ha
  rw [step_of_fetchCommand_ok (nextEvent_ne_idle ha) hf he]
  refine ⟨fun hy => ?_, fun e hy => ?_, fun c o f hy => ?_⟩
  · rw [deliver_nothing hy]
  · rw [deliver_nextEvent_event hactive hy]; rfl
  · rw [deliver_nextEvent_fault hactive hy]; rfl

/-- NextEvent ends in MS_BOUNDS at the `pos` of the Fetch that failed. -/
theorem step_nextEvent_bounds {s t : State} (ha : s.active = .nextEvent) (hf : fetchCommand s = .error t) :
    step s = .next (finish (.malformed .msBounds t.csd.pos none) (raiseFault .msBounds t.csd.pos none t)) := by
  obtain ⟨p, r, v, c, ht⟩ := fetchCommand_error_frame hf
  have hactive : t.active = .nextEvent := by rw [ht]; exact ha
  rw [step_of_fetchCommand_error (nextEvent_ne_idle ha) hf,
    deliver_nextEvent_fault (s := raiseFault _ _ _ t) hactive rfl]

/-- The mark of a command, in one record. -/
theorem markCommand_eq (s : State) :
    markCommand s = { s with csd := { s.csd with
      cmdAt := if (decide (s.csd.rem = 0) && s.csd.resumeValid) = true then s.csd.resumePos else s.csd.pos } } := by
  unfold markCommand
  rw [restoreRegion_eq]

/-- Settles O6: each of the three Fetches that may fail is the error of the command's fetch. -/
theorem boundsFaultEndsNextEvent : Obligations.BoundsFaultEndsNextEvent := by
  intro s ha back pos rem valid failed
  have hmark : markCommand s = { s with csd := { s.csd with cmdAt := pos } } := markCommand_eq s
  refine ⟨fun hfails => ?_, fun b t u hfirst href hlow => ?_, fun b lo t u v hfirst href hlow hhigh => ?_⟩
  · have hfirst := (fetchIsResumeAware (markCommand s)).trans (if_pos hfails)
    rw [hmark] at hfirst
    rw [step_nextEvent_bounds ha (fetchCommand_of_first_error (by rw [hmark]; exact hfirst))]
    rfl
  · rw [← hmark] at hfirst
    rw [step_nextEvent_bounds ha (fetchCommand_of_low_error hfirst (commandLength_ne_one_of_ref href) hlow)]
    rfl
  · rw [← hmark] at hfirst
    rw [step_nextEvent_bounds ha (fetchCommand_of_high_error hfirst (commandLength_ne_one_of_ref href) hlow hhigh)]
    rfl

/-- The state a fetched command of `n` bytes runs in, in one record. -/
theorem pastCommand_restoreRegion (n : Nat) (s : State) :
    let back : Bool := decide (s.csd.rem = 0) && s.csd.resumeValid
    let pos := if back then s.csd.resumePos else s.csd.pos
    pastCommand n (restoreRegion s) = { s with csd := { s.csd with
      cmdAt := pos, pos := pos + n, rem := (if back then s.csd.resumeRem else s.csd.rem) - n
      resumeValid := if back then false else s.csd.resumeValid } } := by
  rw [restoreRegion_eq]
  rfl

/-- Settles O7: a command of one byte, or a REF of three, is fetched whole and run. -/
theorem stepRunsTheDecodedCommand : Obligations.StepRunsTheDecodedCommand := by
  intro s i rest ha back pos rem valid hdecode hrem hlen
  have hpos : (restoreRegion s).csd.pos = pos := by rw [restoreRegion_eq]
  have hr : (restoreRegion s).csd.rem = rem := by rw [restoreRegion_eq]
  have hfetch : fetchCommand s = .ok (i, pastCommand (encode i).length (restoreRegion s)) := by
    obtain ⟨b, hb, hbytes, rfl⟩ | ⟨b, lo, hi, hb, hbytes, rfl⟩ := decode_ok hdecode
    · simp only [List.cons.injEq] at hbytes
      obtain ⟨rfl, -⟩ := hbytes
      rw [(decodeCommand_short _ hb).2] at hrem hlen ⊢
      rw [← hpos] at hb hlen ⊢
      exact fetchCommand_one (by rw [hr]; exact Nat.one_le_iff_ne_zero.mp hrem) hlen hb
    · simp only [List.cons.injEq] at hbytes
      obtain ⟨rfl, rfl, rfl, -⟩ := hbytes
      rw [(encode_decodeCommand_long hb _ _).2] at hrem hlen ⊢
      rw [← hpos] at hb hlen ⊢
      exact fetchCommand_three (by rw [hr]; exact hrem) hlen hb
  rw [step_active ha, decodeStep, hfetch]
  simp only [pastCommand_restoreRegion]
  rfl

theorem finish_of_idle {s : State} (h : s.active = .idle) (r : Return) : finish r s = { s with ret := r } := by
  unfold finish
  rw [← h]

/-- Settles O24: the two branches of `nextEventCall`. -/
theorem nextEventBeginsOnlyInRunning : Obligations.NextEventBeginsOnlyInRunning := by
  intro s rest ha hc
  rw [step_call ha hc]
  constructor
  · intro hrun
    simp only [hostCall, nextEventCall, hrun, if_true]
  · intro hnot
    simp only [hostCall, nextEventCall, if_neg hnot]
    rw [finish_of_idle (s := { s with calls := rest }) ha]

end Sys2Proof.Machine

/-! ## Configurations and Reset (00_scope R8, R10, 10_state R48, 70_reset_and_hazards R310) -/

namespace Sys2Proof.Machine

open Sys2Proof.Safety

theorem ConfigField.mem_all (f : ConfigField) : f ∈ ConfigField.all := by
  cases f <;> decide

/-- No constraint is broken exactly when each holds. -/
theorem legal_iff_fieldOk (p : Params) (len : Nat) : p.legal len = true ↔ ∀ f, p.fieldOk len f = true := by
  simp [Params.legal, Params.violations, ConfigField.mem_all]

/-- Settles O31: `fieldOk` constraint by constraint. -/
theorem legalIsEveryConstraint : Obligations.LegalIsEveryConstraint := by
  intro p len
  rw [legal_iff_fieldOk]
  constructor
  · intro h
    have hpanL := of_decide_eq_true (h .panL)
    have hpanR := of_decide_eq_true (h .panR)
    obtain ⟨hvolLast, hvolFirst, hvolFalls⟩ := of_decide_eq_true (h .vol)
    obtain ⟨hframeLow, hframeHigh⟩ := of_decide_eq_true (h .frameHz)
    have hnoise := of_decide_eq_true (h .noiseDiv)
    exact ⟨of_decide_eq_true (h .len), of_decide_eq_true (h .lenMax), of_decide_eq_true (h .clk),
      of_decide_eq_true (h .rate), fun c hc => ⟨hpanL ⟨c, hc⟩, hpanR ⟨c, hc⟩⟩, of_decide_eq_true (h .panDen),
      of_decide_eq_true (h .outDiv), hvolLast, fun a ha => hvolFalls ⟨a, ha⟩, hvolFirst,
      of_decide_eq_true (h .tapMask), fun k hk => hnoise ⟨k, hk⟩, of_decide_eq_true (h .lfsrSeed), hframeLow,
      hframeHigh, of_decide_eq_true (h .fcw), of_decide_eq_true (h .block), of_decide_eq_true (h .headroom)⟩
  · rintro ⟨hlen, hlenMax, hclk, hrate, hpan, hpanDen, houtDiv, hvolLast, hvolFalls, hvolFirst, htap, hnoise, hseed,
      hframeLow, hframeHigh, hfcw, hblock, hheadroom⟩ f
    cases f with
    | len => exact decide_eq_true hlen
    | lenMax => exact decide_eq_true hlenMax
    | clk => exact decide_eq_true hclk
    | rate => exact decide_eq_true hrate
    | panL => exact decide_eq_true fun c => (hpan c c.isLt).1
    | panR => exact decide_eq_true fun c => (hpan c c.isLt).2
    | panDen => exact decide_eq_true hpanDen
    | outDiv => exact decide_eq_true houtDiv
    | vol => exact decide_eq_true ⟨hvolLast, hvolFirst, fun a => hvolFalls a a.isLt⟩
    | tapMask => exact decide_eq_true htap
    | noiseDiv => exact decide_eq_true fun k => hnoise k k.isLt
    | lfsrSeed => exact decide_eq_true hseed
    | frameHz => exact decide_eq_true ⟨hframeLow, hframeHigh⟩
    | fcw => exact decide_eq_true hfcw
    | block => exact decide_eq_true hblock
    | headroom => exact decide_eq_true hheadroom

theorem one_le_rate_of_legal {p : Params} {len : Nat} (h : p.legal len = true) : 1 ≤ p.rate :=
  of_decide_eq_true ((legal_iff_fieldOk p len).mp h .rate)

theorem len_le_lenMax_of_legal {p : Params} {len : Nat} (h : p.legal len = true) : len ≤ p.lenMax :=
  of_decide_eq_true ((legal_iff_fieldOk p len).mp h .len)

theorem lenMax_ge_of_legal {p : Params} {len : Nat} (h : p.legal len = true) : 65536 ≤ p.lenMax :=
  of_decide_eq_true ((legal_iff_fieldOk p len).mp h .lenMax)

theorem violations_ne_nil {p : Params} {len : Nat} (h : p.legal len = false) : p.violations len ≠ [] := by
  intro hnil
  simp [Params.legal, hnil] at h

/-- The stream space of a buffer holds its bytes. -/
theorem memRead_ofBytes_getElem (bytes : List Byte) {a : Nat} (h : a < bytes.length) :
    memRead (Memory.ofBytes bytes) a = bytes[a] := by
  rw [memRead_ofBytes, List.getD_eq_getElem _ _ h]

/-- Settles O32: `resetCore` field by field, the stream by `memRead_ofBytes`. -/
theorem resetTakesLegalConfigurationsOnly : Obligations.ResetTakesLegalConfigurationsOnly := by
  intro s p bytes rest ha hc
  rw [step_call ha hc]
  constructor
  · intro hlegal
    refine ⟨finish .done (resetCore p bytes { s with calls := rest }), by simp [hostCall, resetCall, hlegal], rfl, rfl,
      fun a h => memRead_ofBytes_getElem bytes h, rfl, rfl, rfl, rfl, rfl, rfl, rfl, rfl, rfl, rfl, rfl, rfl, rfl⟩
  · intro hillegal
    refine ⟨?_, violations_ne_nil hillegal⟩
    simp only [hostCall, resetCall, hillegal, Bool.false_eq_true, if_false]
    rw [finish_of_idle (s := { s with calls := rest }) ha]

/-- Settles O33: all but FCW by definition, FCW by what the session's configuration carries. -/
theorem stateResetHoldsTheResetValues : Obligations.StateResetHoldsTheResetValues :=
  ⟨rfl, rfl, rfl, rfl, rfl, rfl, rfl, rfl, rfl, rfl, Config.session.fcw32⟩

/-- Right after a Reset that takes a legal configuration the position pair is bounded. -/
theorem positionsBounded_resetCore {p : Params} {bytes : List Byte} (h : p.legal bytes.length = true) (s : State) :
    PositionsBounded (resetCore p bytes s) :=
  ⟨h, Nat.zero_le _, len_le_lenMax_of_legal h, nofun, nofun⟩

theorem countersBounded_resetCore {p : Params} {bytes : List Byte} (h : p.legal bytes.length = true) (s : State) :
    CountersBounded (resetCore p bytes s) :=
  ⟨h, one_le_rate_of_legal h, Nat.two_pow_pos _, Nat.zero_le _⟩

theorem topRegionEndsAtLen_resetCore (p : Params) (bytes : List Byte) (s : State) :
    TopRegionEndsAtLen (resetCore p bytes s) :=
  ⟨Nat.zero_add _, nofun⟩

/-- Settles O34: `State.reset` is a Reset of the session's configuration with the empty buffer, no call waiting. -/
theorem invariantsHoldAtReset : Obligations.InvariantsHoldAtReset :=
  ⟨⟨rfl, rfl, nofun⟩, positionsBounded_resetCore (bytes := []) Config.session.isLegal State.reset,
    countersBounded_resetCore (bytes := []) Config.session.isLegal State.reset, fun h => absurd rfl h,
    topRegionEndsAtLen_resetCore Config.session.params [] State.reset⟩

end Sys2Proof.Machine

/-! ## What a delivery and a host call can do, said once -/

namespace Sys2Proof.Machine

open Sys2Proof.Safety

/-- The state after a delivery. -/
inductive Delivery (s : State) : State → Prop where
  /-- No operation waits for the yield, or the operation goes on. -/
  | goesOn (h : s.active ≠ .idle →
      s.csd.yielded ≠ .event .endOfStream ∧ ∀ c o f, s.csd.yielded ≠ .fault c o f) : Delivery s s
  /-- NextEvent returns. -/
  | returns (r : Return) : Delivery s (finish r s)
  /-- SEQ waits for a frame's samples. -/
  | waits (f : Nat) : Delivery s (finish .done
      { s with seq := { s.seq with budget := f * samplesPerFrame s.params, mode := .waiting } })
  /-- SEQ submits a buffer that holds frames, and goes to Ending. -/
  | submits (h : s.csd.yielded = .event .endOfStream) : Delivery s (finish .done
      { submitBuffer s with seq := { s.seq with mode := .ending } })
  /-- SEQ goes to Ending with nothing to submit. -/
  | ends (h : s.csd.yielded = .event .endOfStream) : Delivery s (finish .done
      { s with seq := { s.seq with mode := .ending } })
  /-- A fault stops playback. -/
  | stops (c : FaultCode) : Delivery s (finish .done (stopPlayback (.failed c) s))

theorem sequenceEvent_delivery {s : State} {e : Event} (hy : s.csd.yielded = .event e) :
    Delivery s (sequenceEvent e s) := by
  cases e with
  | registerWrite r v => exact .goesOn fun _ => by simp [hy]
  | endOfFrame f => exact .waits f
  | loopStart => exact .goesOn fun _ => by simp [hy]
  | endOfStream =>
    simp only [sequenceEvent]
    split
    · exact .submits hy
    · exact .ends hy

theorem deliver_delivery (s : State) : Delivery s (deliver s) := by
  cases hy : s.csd.yielded with
  | nothing =>
    rw [deliver_nothing hy]
    exact .goesOn fun _ => by simp [hy]
  | event e =>
    cases ha : s.active with
    | idle => rw [deliver_idle ha]; exact .goesOn fun h => absurd ha h
    | nextEvent => rw [deliver_nextEvent_event ha hy]; exact .returns _
    | tick => rw [deliver_tick_event ha hy]; exact sequenceEvent_delivery hy
  | fault c o f =>
    cases ha : s.active with
    | idle => rw [deliver_idle ha]; exact .goesOn fun h => absurd ha h
    | nextEvent => rw [deliver_nextEvent_fault ha hy]; exact .returns _
    | tick => rw [deliver_tick_fault ha hy]; exact .stops c

/-- The state after a host call that completes. -/
inductive HostEffect (s : State) : State → Prop where
  | reset (p : Params) (bytes : List Byte) (h : p.legal bytes.length = true) :
      HostEffect s (finish .done (resetCore p bytes s))
  /-- The call has no effect on the core. -/
  | returns (r : Return) : HostEffect s (finish r s)
  /-- NextEvent or a Tick in CommandProcessing begins to decode. -/
  | begins (a : Active) (h : s.csd.status = .running) : HostEffect s { s with active := a }
  | renders (n dst : Nat) (t : State) (h : render n dst s = .next t) : HostEffect s (finish .done t)
  | starts : HostEffect s (finish .done { s with seq := { s.seq with term := .none, mode := .commandProcessing } })
  /-- Playback stops: Cancel, a Tick in Ending, a NextEvent out of Running, a sink that does not open. -/
  | stops (r : Return) (term : Terminal) : HostEffect s (finish r (stopPlayback term s))
  /-- A Tick in Waiting. -/
  | waits (t : State) (h : render (waitingFrames s) s.seq.cursor s = .next t) :
      HostEffect s (finish .done (afterWaitingRender (waitingFrames s) t))
  /-- A Tick in BufferWaiting is granted a buffer. -/
  | granted : HostEffect s (finish .done (tickBufferWaiting true s))
  | lends (samples : List Sample) : HostEffect s (finish .done { s with pcm := PcmBuffer.ofSamples samples })

theorem tick_effect {granted allIdle : Bool} {s t : State} (h : tick granted allIdle s = .next t) : HostEffect s t := by
  unfold tick at h
  split at h
  · cases h; exact .returns .done
  · cases h
    unfold tickCommandProcessing
    split
    · next hrun => exact .begins .tick hrun
    · exact .stops .done _
  · obtain ⟨u, hrender, hu⟩ := andThen_eq_next.mp h
    cases hu
    exact .waits u hrender
  · cases h
    cases granted with
    | true => exact .granted
    | false => exact .returns .done
  · cases h
    cases allIdle with
    | true => exact .stops .done _
    | false => exact .returns .done

theorem hostCall_effect {c : HostCall} {s t : State} (h : hostCall c s = .next t) : HostEffect s t := by
  cases c with
  | reset p bytes =>
    cases h
    unfold resetCall
    split
    · next hlegal => exact .reset p bytes hlegal
    · exact .returns _
  | nextEvent =>
    cases h
    unfold nextEventCall
    split
    · next hrun => exact .begins .nextEvent hrun
    · exact .returns _
  | render n dst =>
    obtain ⟨u, hrender, hu⟩ := andThen_eq_next.mp h
    cases hu
    exact .renders n dst u hrender
  | start =>
    cases h
    unfold startPlayback
    split
    · exact .starts
    · exact .returns .done
  | tick granted allIdle => exact tick_effect h
  | cancel =>
    cases h
    unfold cancelPlayback
    split
    · exact .returns .done
    · exact .stops .done _
  | lend samples =>
    simp only [hostCall, lendCall] at h
    split at h
    · cases h
    · cases h; exact .lends samples
  | sinkUnavailable => cases h; exact .stops _ _

/-- With no operation in progress a step leaves CSD, RF, stream and configuration alone, or takes a legal Reset. -/
theorem idle_step_frame {s t : State} (ha : s.active = .idle) (h : step s = .next t) :
    (t.csd = s.csd ∧ t.rf = s.rf ∧ t.params = s.params ∧ t.stream = s.stream ∧ t.len = s.len) ∨
      (IsLegalReset s ∧ ∃ p bytes rest, p.legal bytes.length = true ∧
        t = finish .done (resetCore p bytes { s with calls := rest })) := by
  obtain ⟨-, -, rfl⟩ | ⟨c, rest, -, hc, hcall⟩ | ⟨hactive, -⟩ := step_cases h
  · exact .inl ⟨rfl, rfl, rfl, rfl, rfl⟩
  · obtain hframe | ⟨p, bytes, rfl, hlegal, ht⟩ := hostCall_frame hcall
    · exact .inl hframe
    · exact .inr ⟨⟨ha, p, bytes, rest, hc, hlegal⟩, p, bytes, rest, hlegal, ht⟩
  · exact absurd ha hactive

/-- A DecodeStep delivers the effect of a fetched command, or the fault of a Fetch that failed. -/
theorem decodeStep_effect {s t : State} (h : decodeStep s = .next t) :
    (∃ u, fetchCommand s = .error u ∧ t = deliver (raiseFault .msBounds u.csd.pos none u)) ∨
      ∃ i u v, fetchCommand s = .ok (i, u) ∧ CommandEffect u i v ∧ t = deliver v := by
  obtain hfails | ⟨i, u, v, hf, he, ht⟩ := decodeStep_next h
  · exact .inl hfails
  · exact .inr ⟨i, u, v, hf, effect_of_exec he, ht⟩

theorem decodeStep_total (s : State) : ∃ t, decodeStep s = .next t := by
  unfold decodeStep
  split
  · exact ⟨_, rfl⟩
  · next i u hf =>
    obtain ⟨v, hv, -⟩ := exec_effect i u
    exact ⟨deliver v, by rw [hv]; rfl⟩

/-- The yield as CSD left it: a DecodeStep is a fetch, a command that writes RF, CSD and the shift register only, and a
delivery. -/
theorem decodeStep_frame {s t : State} (h : decodeStep s = .next t) :
    ∃ v x, v = { s with rf := v.rf, csd := v.csd, syn := { s.syn with lfsr := x } } ∧ t = deliver v := by
  obtain ⟨u, hf, rfl⟩ | ⟨i, u, v, hf, heffect, rfl⟩ := decodeStep_effect h
  · obtain ⟨p, r, w, c, rfl⟩ := fetchCommand_error_frame hf
    exact ⟨_, s.syn.lfsr, rfl, rfl⟩
  · obtain ⟨p, r, w, c, rfl⟩ := fetchCommand_ok_frame hf
    obtain ⟨x, hv⟩ := heffect.frame
    exact ⟨v, x, hv, rfl⟩

/-- What survives every Fetch, every command and every delivery survives a DecodeStep. -/
theorem decodeStep_keeps {P : State → Prop} {s t : State} (mark : ∀ s, P s → P (markCommand s))
    (restore : ∀ s, P s → P (restoreRegion s))
    (consume : ∀ s, P s → s.csd.rem ≠ 0 → s.csd.pos < s.len →
      P { s with csd := { s.csd with pos := s.csd.pos + 1, rem := s.csd.rem - 1 } })
    (fault : ∀ u c o f, P u → P (raiseFault c o f u))
    (effect : ∀ i u v, fetchCommand s = .ok (i, u) → P u → CommandEffect u i v → P v)
    (delivery : ∀ v, P v → P (deliver v)) (hs : P s) (h : decodeStep s = .next t) : P t := by
  obtain ⟨hok, herror⟩ := fetchCommand_keeps mark restore consume hs
  obtain ⟨u, hf, rfl⟩ | ⟨i, u, v, hf, heffect, rfl⟩ := decodeStep_effect h
  · exact delivery _ (fault _ _ _ _ (herror u hf))
  · exact delivery _ (effect i u v hf (hok i u hf) heffect)

end Sys2Proof.Machine

/-! ## What every step keeps (10_state R28, R33, R36, R40, R42) -/

namespace Sys2Proof.Safety

open Sys2Proof.Machine

/-! ### The canonical form of both address spaces -/

theorem MemoryCanonical.after_submitBuffer {s : State} (h : MemoryCanonical s) : MemoryCanonical (submitBuffer s) := by
  obtain ⟨hstream, hpcm, hsubmitted⟩ := h
  refine ⟨hstream, rfl, fun b hb => ?_⟩
  rcases List.mem_append.mp hb with hold | hnew
  · exact hsubmitted b hold
  · rw [List.mem_singleton.mp hnew]
    exact hpcm

theorem MemoryCanonical.after_stopPlayback {s : State} (h : MemoryCanonical s) (t : Terminal) :
    MemoryCanonical (stopPlayback t s) := by
  obtain ⟨hstream, hpcm, hsubmitted⟩ := h
  refine ⟨hstream, ?_, hsubmitted⟩
  rw [stopPlayback_pcm]
  split
  · rfl
  · exact hpcm

theorem MemoryCanonical.after_delivery {s t : State} (h : MemoryCanonical s)
    (hd : Delivery s t) : MemoryCanonical t := by
  cases hd with
  | goesOn => exact h
  | returns r => exact h
  | waits f => exact h
  | submits => exact h.after_submitBuffer
  | ends => exact h
  | stops c => exact h.after_stopPlayback (.failed c)

theorem MemoryCanonical.after_render {n dst : Nat} {s t : State} (h : MemoryCanonical s)
    (hr : render n dst s = .next t) : MemoryCanonical t := by
  obtain ⟨hstream, hpcm, hsubmitted⟩ := h
  have hwf := render_keeps_wf hr hpcm
  rw [render_frame hr]
  exact ⟨hstream, hwf, hsubmitted⟩

theorem MemoryCanonical.after_waiting {s : State} (h : MemoryCanonical s) (n : Nat) :
    MemoryCanonical (afterWaitingRender n s) := by
  simp only [afterWaitingRender]
  split
  · exact h
  · split
    · exact MemoryCanonical.after_submitBuffer (s := { s with seq := _ }) h
    · exact h

theorem MemoryCanonical.after_hostEffect {s t : State} (h : MemoryCanonical s)
    (he : HostEffect s t) : MemoryCanonical t := by
  cases he with
  | reset p bytes hlegal =>
    obtain ⟨-, -, hsubmitted⟩ := h
    exact ⟨Memory.wf_ofBytes bytes, rfl, hsubmitted⟩
  | returns r => exact h
  | begins a hrun => exact h
  | renders n dst t hr =>
    have kept : MemoryCanonical t := h.after_render hr
    exact kept
  | starts => exact h
  | stops r term => exact h.after_stopPlayback term
  | waits t hr => exact (h.after_render hr).after_waiting _
  | granted =>
    obtain ⟨hstream, -, hsubmitted⟩ := h
    exact ⟨hstream, rfl, hsubmitted⟩
  | lends samples =>
    obtain ⟨hstream, -, hsubmitted⟩ := h
    exact ⟨hstream, Cells.wf_ofList samples, hsubmitted⟩

/-- Settles O35: a command writes neither address space; the PCM space changes by Render and by SEQ's buffers. -/
theorem everyStepKeepsMemoryCanonical : Obligations.EveryStepKeepsMemoryCanonical := by
  intro s t hs h
  obtain ⟨-, -, rfl⟩ | ⟨c, rest, -, -, hcall⟩ | ⟨-, hdecode⟩ := step_cases h
  · exact hs
  · exact MemoryCanonical.after_hostEffect (s := { s with calls := rest }) hs (hostCall_effect hcall)
  · obtain ⟨v, x, hv, rfl⟩ := decodeStep_frame hdecode
    refine MemoryCanonical.after_delivery ?_ (deliver_delivery v)
    rw [hv]
    exact hs

/-! ### The position pair -/

theorem PositionsBounded.after_restoreRegion {s : State} (h : PositionsBounded s) :
    PositionsBounded (restoreRegion s) := by
  obtain ⟨-, hv, e⟩ | ⟨-, e⟩ := restoreRegion_cases s
  · obtain ⟨hlegal, -, -, hresume, hloop⟩ := h
    obtain ⟨hpos, hrem⟩ := hresume hv
    rw [e]
    exact ⟨hlegal, hpos, hrem, nofun, hloop⟩
  · rw [e]
    exact h

theorem PositionsBounded.after_commandEffect {i : Instr} {s t : State} (h : PositionsBounded s)
    (he : CommandEffect s i t) : PositionsBounded t := by
  cases he with
  | latch r v hi => exact h
  | latchNctrl n v => exact h
  | data d r v => exact h
  | fault i c o f => exact h
  | jump hv =>
    obtain ⟨hlegal, -, -, hresume, hloop⟩ := h
    obtain ⟨hpos, hrem⟩ := hloop hv
    exact ⟨hlegal, hpos, hrem, hresume, hloop⟩
  | ended hv => exact h
  | capture hv =>
    obtain ⟨hlegal, hpos, hrem, hresume, -⟩ := h
    exact ⟨hlegal, hpos, hrem, hresume, fun _ => ⟨hpos, hrem⟩⟩
  | loopAgain hv => exact h
  | enter len off hoff hv =>
    obtain ⟨hlegal, hpos, hrem, -, hloop⟩ := h
    have hmax := lenMax_ge_of_legal hlegal
    have hlen := len.isLt
    exact ⟨hlegal, Nat.le_of_lt hoff, show len.toNat ≤ s.params.lenMax by omega, fun _ => ⟨hpos, hrem⟩, hloop⟩
  | eof nnn => exact h

theorem PositionsBounded.congr {s t : State} (h : PositionsBounded s) (hc : t.csd = s.csd) (hp : t.params = s.params)
    (hl : t.len = s.len) : PositionsBounded t := by
  unfold PositionsBounded ConfigLegal
  rw [hc, hp, hl]
  exact h

theorem PositionsBounded.after_deliver {s : State} (h : PositionsBounded s) : PositionsBounded (deliver s) := by
  obtain ⟨hcsd, -, -, hparams, -, hlen⟩ := deliver_frame s
  exact h.congr hcsd hparams hlen

/-- Settles O36: a Fetch moves `pos` below LEN only, a restore and a jump take a pair that was held within its bounds,
and a REF enters below LEN with at most 63 bytes. -/
theorem everyStepKeepsPositionsBounded : Obligations.EveryStepKeepsPositionsBounded := by
  intro s t hs h
  by_cases ha : s.active = .idle
  · obtain ⟨hcsd, -, hparams, -, hlen⟩ | ⟨-, p, bytes, rest, hlegal, rfl⟩ := idle_step_frame ha h
    · exact hs.congr hcsd hparams hlen
    · exact positionsBounded_resetCore hlegal s
  · rw [step_active ha] at h
    refine decodeStep_keeps (fun _ hs => hs) (fun _ hs => hs.after_restoreRegion) ?consume (fun _ _ _ _ hu => hu)
      (fun _ _ _ _ hu he => hu.after_commandEffect he) (fun _ hv => hv.after_deliver) hs h
    case consume =>
      rintro u ⟨hlegal, -, hrem, hresume, hloop⟩ - hpos
      exact ⟨hlegal, hpos, (Nat.sub_le _ _).trans hrem, hresume, hloop⟩

/-! ### The top-level region -/

theorem TopRegionEndsAtLen.after_restoreRegion {s : State} (h : TopRegionEndsAtLen s) :
    TopRegionEndsAtLen (restoreRegion s) := by
  obtain ⟨-, hv, e⟩ | ⟨-, e⟩ := restoreRegion_cases s
  · obtain ⟨htop, hloop⟩ := h
    rw [if_pos hv] at htop
    rw [e]
    exact ⟨htop, hloop⟩
  · rw [e]
    exact h

theorem TopRegionEndsAtLen.after_consume {s : State} (h : TopRegionEndsAtLen s) (hr : s.csd.rem ≠ 0) :
    TopRegionEndsAtLen { s with csd := { s.csd with pos := s.csd.pos + 1, rem := s.csd.rem - 1 } } := by
  obtain ⟨htop, hloop⟩ := h
  refine ⟨?_, hloop⟩
  cases hv : s.csd.resumeValid with
  | true => simpa [hv] using htop
  | false =>
    simp only [hv, Bool.false_eq_true, if_false] at htop ⊢
    omega

/-- The one effect that asks for more is a LOOP that captures the pair: it must stand at top level. -/
theorem TopRegionEndsAtLen.after_commandEffect {i : Instr} {s t : State} (h : TopRegionEndsAtLen s)
    (hcapture : i = .loop → s.csd.resumeValid = false ∨ s.csd.loopValid = true) (he : CommandEffect s i t) :
    TopRegionEndsAtLen t := by
  cases he with
  | latch r v hi => exact h
  | latchNctrl n v => exact h
  | data d r v => exact h
  | fault i c o f => exact h
  | jump hv =>
    obtain ⟨htop, hloop⟩ := h
    refine ⟨?_, hloop⟩
    cases hr : s.csd.resumeValid with
    | true => simpa [hr] using htop
    | false => simpa [hr] using hloop hv
  | ended hv => exact h
  | capture hv =>
    obtain ⟨htop, -⟩ := h
    have hr : s.csd.resumeValid = false := (hcapture rfl).resolve_right (by simp [hv])
    have hpair : s.csd.pos + s.csd.rem = s.len := by simpa [hr] using htop
    exact ⟨htop, fun _ => hpair⟩
  | loopAgain hv => exact h
  | enter len off hoff hv =>
    obtain ⟨htop, hloop⟩ := h
    have hpair : s.csd.pos + s.csd.rem = s.len := by simpa [hv] using htop
    exact ⟨hpair, hloop⟩
  | eof nnn => exact h

theorem TopRegionEndsAtLen.congr {s t : State} (h : TopRegionEndsAtLen s) (hc : t.csd = s.csd) (hl : t.len = s.len) :
    TopRegionEndsAtLen t := by
  unfold TopRegionEndsAtLen
  rw [hc, hl]
  exact h

theorem TopRegionEndsAtLen.after_deliver {s : State} (h : TopRegionEndsAtLen s) : TopRegionEndsAtLen (deliver s) := by
  obtain ⟨hcsd, -, -, -, -, hlen⟩ := deliver_frame s
  exact h.congr hcsd hlen

/-- Settles O39: Fetch keeps `pos + rem`, REF and the restore move it into and out of the resume pair, the jump takes it
from the loop pair. -/
theorem everyStepKeepsTopRegionEndingAtLen : Obligations.EveryStepKeepsTopRegionEndingAtLen := by
  intro s t hs h hcapture
  by_cases ha : s.active = .idle
  · obtain ⟨hcsd, -, -, -, hlen⟩ | ⟨-, p, bytes, rest, -, rfl⟩ := idle_step_frame ha h
    · exact hs.congr hcsd hlen
    · exact topRegionEndsAtLen_resetCore p bytes s
  · rw [step_active ha] at h
    refine decodeStep_keeps (fun _ hs => hs) (fun _ hs => hs.after_restoreRegion) (fun _ hs hr _ => hs.after_consume hr)
      (fun _ _ _ _ hu => hu) ?effect (fun _ hv => hv.after_deliver) hs h
    case effect =>
      intro i u v hf hu he
      exact hu.after_commandEffect (fun hi => hcapture u ha (hi ▸ hf)) he

/-! ### The counters -/

/-- The clock conversion is division with remainder. -/
theorem clockStep_eq {p : Params} (acc : Nat) :
    clockStep p acc = ((acc + p.clk / 16) / p.rate, (acc + p.clk / 16) % p.rate) := by
  simp only [clockStep, Prod.mk.injEq, true_and]
  exact (Nat.mod_eq_sub_div_mul).symm

theorem synTick_acc_lt {p : Params} (h : 1 ≤ p.rate) (rf : RegFile) (syn : Synth) :
    (synTick p rf syn).acc < p.rate := by
  simp only [synTick, clockStep_eq]
  exact Nat.mod_lt _ h

theorem render_acc_lt {n dst : Nat} {s t : State} (h : render n dst s = .next t) (hr : 1 ≤ s.params.rate)
    (hacc : s.syn.acc < s.params.rate) : t.syn.acc < s.params.rate := by
  rw [render_syn h]
  cases n with
  | zero => exact hacc
  | succ n =>
    rw [Function.iterate_succ_apply']
    exact synTick_acc_lt hr _ _

theorem CountersBounded.after_render {n dst : Nat} {s t : State} (h : CountersBounded s)
    (hr : render n dst s = .next t) : CountersBounded t := by
  obtain ⟨hlegal, hacc, hfc, hcursor⟩ := h
  have hacc' := render_acc_lt hr (one_le_rate_of_legal hlegal) hacc
  rw [render_frame hr]
  exact ⟨hlegal, hacc', hfc, hcursor⟩

/-- Waiting renders no further than the end of the buffer. -/
theorem CountersBounded.after_waits {s t : State} (h : CountersBounded s)
    (hr : render (waitingFrames s) s.seq.cursor s = .next t) :
    CountersBounded (afterWaitingRender (waitingFrames s) t) := by
  obtain ⟨hlegal, hacc, hfc, hcursor⟩ := h.after_render hr
  have hframe := render_frame hr
  have hfits : s.seq.cursor + waitingFrames s ≤ s.params.block := by
    obtain ⟨-, -, -, hc⟩ := h
    have hmin : waitingFrames s ≤ if s.seq.haveBuf then s.params.block - s.seq.cursor else 0 := Nat.min_le_left _ _
    split at hmin <;> omega
  have hseq : t.seq = s.seq := by rw [hframe]
  have hparams : t.params = s.params := by rw [hframe]
  rw [← hseq, ← hparams] at hfits
  simp only [afterWaitingRender]
  split
  · exact ⟨hlegal, hacc, hfc, hfits⟩
  · split <;> exact ⟨hlegal, hacc, hfc, hfits⟩

theorem CountersBounded.after_hostEffect {s t : State} (h : CountersBounded s)
    (he : HostEffect s t) : CountersBounded t := by
  cases he with
  | reset p bytes hlegal => exact countersBounded_resetCore hlegal s
  | returns r => exact h
  | begins a hrun => exact h
  | renders n dst t hr =>
    have kept : CountersBounded t := h.after_render hr
    exact kept
  | starts => exact h
  | stops r term =>
    obtain ⟨hlegal, hacc, hfc, -⟩ := h
    exact ⟨hlegal, hacc, hfc, Nat.zero_le _⟩
  | waits t hr => exact h.after_waits hr
  | granted =>
    obtain ⟨hlegal, hacc, hfc, -⟩ := h
    exact ⟨hlegal, hacc, hfc, Nat.zero_le _⟩
  | lends samples => exact h

theorem CountersBounded.after_commandEffect {i : Instr} {s t : State} (h : CountersBounded s)
    (he : CommandEffect s i t) : CountersBounded t := by
  cases he with
  | eof nnn =>
    obtain ⟨hlegal, hacc, -, hcursor⟩ := h
    exact ⟨hlegal, hacc, Nat.mod_lt _ (Nat.two_pow_pos _), hcursor⟩
  | latch | latchNctrl | data | fault | jump | ended | capture | loopAgain | enter => exact h

theorem CountersBounded.after_delivery {s t : State} (h : CountersBounded s)
    (hd : Delivery s t) : CountersBounded t := by
  cases hd with
  | stops c =>
    obtain ⟨hlegal, hacc, hfc, -⟩ := h
    exact ⟨hlegal, hacc, hfc, Nat.zero_le _⟩
  | goesOn | returns | waits | submits | ends => exact h

/-- Settles O37: the remainder of a division, a sum modulo 2^FCW, and `min(space, budget)` frames. -/
theorem everyStepKeepsCountersBounded : Obligations.EveryStepKeepsCountersBounded := by
  intro s t hs h
  obtain ⟨-, -, rfl⟩ | ⟨c, rest, -, -, hcall⟩ | ⟨-, hdecode⟩ := step_cases h
  · exact hs
  · exact CountersBounded.after_hostEffect (s := { s with calls := rest }) hs (hostCall_effect hcall)
  · refine decodeStep_keeps (fun _ hs => hs) ?restore (fun _ hs _ _ => hs) (fun _ _ _ _ hu => hu)
      (fun _ _ _ _ hu he => hu.after_commandEffect he) (fun _ hv => hv.after_delivery (deliver_delivery _)) hs hdecode
    case restore =>
      intro u hu
      obtain ⟨p, r, v, e⟩ := restoreRegion_frame u
      rw [e]
      exact hu

/-! ### An operation in progress -/

/-- A command that leaves Running yields what ends the operation: EndOfStream or a fault. -/
theorem effect_running_or_final {i : Instr} {s t : State} (h : CommandEffect s i t)
    (hs : s.csd.status = .running) :
    t.csd.status = .running ∨ t.csd.yielded = .event .endOfStream ∨ ∃ c o f, t.csd.yielded = .fault c o f := by
  cases h with
  | ended => exact .inr (.inl rfl)
  | fault i c o f => exact .inr (.inr ⟨c, o, f, rfl⟩)
  | latch | latchNctrl | data | jump | capture | loopAgain | enter | eof => exact .inl hs

theorem activeOnlyWhenRunning_of_delivery {s t : State}
    (h : s.csd.status = .running ∨ s.csd.yielded = .event .endOfStream ∨ ∃ c o f, s.csd.yielded = .fault c o f)
    (hd : Delivery s t) : ActiveOnlyWhenRunning t := by
  cases hd with
  | goesOn hgoes =>
    intro ha
    obtain ⟨hend, hfault⟩ := hgoes ha
    obtain hrun | hy | ⟨c, o, f, hy⟩ := h
    · exact hrun
    · exact absurd hy hend
    · exact absurd hy (hfault c o f)
  | returns | waits | submits | ends | stops => exact fun ha => absurd rfl ha

theorem activeOnlyWhenRunning_of_hostEffect {s t : State} (he : HostEffect s t) :
    ActiveOnlyWhenRunning t := by
  cases he with
  | begins a hrun => exact fun _ => hrun
  | waits | reset | returns | renders | starts | stops | granted | lends => exact fun h => absurd rfl h

/-- Settles O38: only EndOfStream and a fault leave Running, and both end the operation. -/
theorem everyStepKeepsActiveOnlyWhenRunning : Obligations.EveryStepKeepsActiveOnlyWhenRunning := by
  intro s t hs h
  obtain ⟨-, -, rfl⟩ | ⟨c, rest, ha, -, hcall⟩ | ⟨ha, hdecode⟩ := step_cases h
  · exact hs
  · exact activeOnlyWhenRunning_of_hostEffect (hostCall_effect hcall)
  · obtain ⟨u, -, rfl⟩ | ⟨i, u, v, hf, heffect, rfl⟩ := decodeStep_effect hdecode
    · exact activeOnlyWhenRunning_of_delivery (.inr (.inr ⟨_, _, _, rfl⟩)) (deliver_delivery _)
    · obtain ⟨p, r, w, c, rfl⟩ := fetchCommand_ok_frame hf
      exact activeOnlyWhenRunning_of_delivery (effect_running_or_final heffect (hs ha)) (deliver_delivery v)

end Sys2Proof.Safety

/-! ## What steps never do, and how soon NextEvent returns (10_state R21, R26, R31, 42_back_reference R165) -/

namespace Sys2Proof.Machine

open Sys2Proof.Safety

/-- Settles O25: out of Running no operation is in progress, so the step is a host call. -/
theorem onlyResetLeavesEndedOrFaulted : Obligations.OnlyResetLeavesEndedOrFaulted := by
  intro s t hactive hstatus h
  have ha : s.active = .idle := by
    by_contra hne
    exact hstatus (hactive hne)
  obtain ⟨hcsd, -⟩ | ⟨hreset, -⟩ := idle_step_frame ha h
  · exact .inl (by rw [hcsd])
  · exact .inr hreset

/-- Settles O26: the fetch and the delivery write no register, and O23 names the commands that do. -/
theorem onlyLatchDataAndResetWriteRegisters : Obligations.OnlyLatchDataAndResetWriteRegisters := by
  intro s t h hchanged
  by_cases ha : s.active = .idle
  · obtain ⟨-, hrf, -⟩ | ⟨hreset, -⟩ := idle_step_frame ha h
    · exact absurd hrf hchanged
    · exact .inr hreset
  · rw [step_active ha] at h
    obtain ⟨u, hf, rfl⟩ | ⟨i, u, v, hf, he, rfl⟩ := decodeStep_next h
    · obtain ⟨p, r, w, c, hu⟩ := fetchCommand_error_frame hf
      obtain ⟨-, hrf, -⟩ := deliver_frame (raiseFault .msBounds u.csd.pos none u)
      exact absurd (hrf.trans (by rw [raiseFault_rf, hu])) hchanged
    · obtain ⟨-, hrf, -⟩ := deliver_frame v
      rw [hrf] at hchanged
      obtain ⟨-, -, -, hcommand, -⟩ := commandsLeaveTheRestAlone i u v he
      have hkept : u.rf = s.rf := by
        obtain ⟨p, r, w, c, rfl⟩ := fetchCommand_ok_frame hf
        rfl
      exact .inl ⟨ha, i, u, hf, hcommand (by rw [hkept]; exact hchanged)⟩

/-- Settles O27: no DecodeStep and no host call but Reset writes the stream or the configuration. -/
theorem onlyResetChangesStreamAndConfiguration : Obligations.OnlyResetChangesStreamAndConfiguration := by
  intro s t h
  by_cases ha : s.active = .idle
  · obtain ⟨-, -, hparams, hstream, hlen⟩ | ⟨hreset, -⟩ := idle_step_frame ha h
    · exact .inl ⟨hparams, hlen, fun a => by rw [hstream]⟩
    · exact .inr hreset
  · rw [step_active ha] at h
    obtain ⟨v, x, hv, rfl⟩ := decodeStep_frame h
    obtain ⟨-, -, -, hparams, hstream, hlen⟩ := deliver_frame v
    exact .inl ⟨hparams.trans (by rw [hv]), hlen.trans (by rw [hv]), fun a => by rw [hstream, hv]⟩

/-- `t` holds the loop context that `s` holds. -/
def SameLoopContext (s t : State) : Prop :=
  t.csd.loopValid = true ∧ t.csd.loopPos = s.csd.loopPos ∧ t.csd.loopRem = s.csd.loopRem

theorem CommandEffect.keeps_loop_context {i : Instr} {s t : State} (h : CommandEffect s i t)
    (hv : s.csd.loopValid = true) : SameLoopContext s t := by
  cases h with
  | capture hfree => exact absurd hfree (by simp [hv])
  | latch | latchNctrl | data | fault | jump | ended | loopAgain | enter | eof => exact ⟨hv, rfl, rfl⟩

theorem decodeStep_keeps_loop_context {s t : State} (hv : s.csd.loopValid = true) (h : decodeStep s = .next t) :
    SameLoopContext s t := by
  obtain ⟨u, hf, rfl⟩ | ⟨i, u, v, hf, heffect, rfl⟩ := decodeStep_effect h
  · obtain ⟨p, r, w, c, rfl⟩ := fetchCommand_error_frame hf
    unfold SameLoopContext
    rw [(deliver_frame _).1]
    exact ⟨hv, rfl, rfl⟩
  · obtain ⟨p, r, w, c, rfl⟩ := fetchCommand_ok_frame hf
    unfold SameLoopContext
    rw [(deliver_frame v).1]
    exact heffect.keeps_loop_context hv

/-- Settles O28: LOOP captures only when no context is held, and no other command writes it. -/
theorem loopContextNeverChangesOnceSet : Obligations.LoopContextNeverChangesOnceSet := by
  intro s t hv h
  by_cases ha : s.active = .idle
  · obtain ⟨hcsd, -⟩ | ⟨hreset, -⟩ := idle_step_frame ha h
    · exact .inl (by rw [hcsd]; exact ⟨hv, rfl, rfl⟩)
    · exact .inr hreset
  · rw [step_active ha] at h
    exact .inl (decodeStep_keeps_loop_context hv h)

/-! ### NextEvent without a loop context -/

/-- Without a loop context the one command that yields no event and no fault is a REF that enters its region. -/
theorem CommandEffect.yields_or_enters {i : Instr} {s t : State} (h : CommandEffect s i t)
    (hv : s.csd.loopValid = false) :
    (∃ e, t.csd.yielded = .event e) ∨ (∃ c o f, t.csd.yielded = .fault c o f) ∨
      ∃ len off, i = .ref len off ∧ s.csd.resumeValid = false ∧
        t = yieldNothing (enterRegion off.toNat len.toNat s) := by
  cases h with
  | fault i c o f => exact .inr (.inl ⟨c, o, f, rfl⟩)
  | jump hloop => exact absurd hloop (by simp [hv])
  | enter len off hoff hr => exact .inr (.inr ⟨len, off, rfl, hr, rfl⟩)
  | latch | latchNctrl | data | ended | capture | loopAgain | eof => exact .inl ⟨_, rfl⟩

/-- A step of NextEvent without a loop context returns, or has entered a REF's region. -/
theorem step_nextEvent_returns_or_enters {s : State} (ha : s.active = .nextEvent) (hv : s.csd.loopValid = false) :
    ∃ t, step s = .next t ∧ (t.active = .idle ∨ ∃ len off u, fetchCommand s = .ok (.ref len off, u) ∧
      u.csd.resumeValid = false ∧ t = yieldNothing (enterRegion off.toNat len.toNat u)) := by
  cases hf : fetchCommand s with
  | error u => exact ⟨_, step_nextEvent_bounds ha hf, .inl rfl⟩
  | ok fetched =>
    obtain ⟨i, u⟩ := fetched
    obtain ⟨v, he, heffect⟩ := exec_effect i u
    have hactive : v.active = .nextEvent := (command_keeps_active hf he).trans ha
    have hloop : u.csd.loopValid = false := (fetchCommand_ok_keeps_stream_loopValid hf).2.trans hv
    refine ⟨deliver v, step_of_fetchCommand_ok (nextEvent_ne_idle ha) hf he, ?_⟩
    obtain ⟨e, hy⟩ | ⟨c, o, f, hy⟩ | ⟨len, off, rfl, hr, rfl⟩ := heffect.yields_or_enters hloop
    · exact .inl (by rw [deliver_nextEvent_event hactive hy]; rfl)
    · exact .inl (by rw [deliver_nextEvent_fault hactive hy]; rfl)
    · exact .inr ⟨len, off, u, rfl, hr, deliver_nothing rfl⟩

/-- A Fetch with no return due moves the pair by one and keeps the resume context. -/
theorem fetch_ok_unrestored {s t : State} {b : Byte} (hk : ¬(s.csd.rem = 0 ∧ s.csd.resumeValid = true))
    (h : fetch s = .ok (b, t)) : t = { s with csd := { s.csd with pos := s.csd.pos + 1, rem := s.csd.rem - 1 } } := by
  obtain ⟨-, -, -, ht⟩ := fetch_ok h
  rwa [restoreRegion_of_not_due hk] at ht

/-- A command fetched from a region with three bytes left keeps the resume context. -/
theorem fetchCommand_keeps_resumeValid {s t : State} {i : Instr} (hr : 3 ≤ s.csd.rem)
    (h : fetchCommand s = .ok (i, t)) : t.csd.resumeValid = s.csd.resumeValid := by
  have inside : ∀ {n : Nat}, n ≠ 0 → ∀ {p : Prop}, ¬(n = 0 ∧ p) := fun hn _ h0 => hn h0.1
  obtain ⟨b, s1, h1, ⟨-, -, rfl⟩ | ⟨-, lo, hi, s2, h2, h3, -⟩⟩ := fetchCommand_ok h
  · rw [fetch_ok_unrestored (inside (by simp only [markCommand_csd]; omega)) h1]
    rfl
  · have e1 := fetch_ok_unrestored (inside (by simp only [markCommand_csd]; omega)) h1
    have e2 := fetch_ok_unrestored (inside (by rw [e1]; simp only [markCommand_csd]; omega)) h2
    have e3 := fetch_ok_unrestored (inside (by rw [e2, e1]; simp only [markCommand_csd]; omega)) h3
    rw [e3, e2, e1]
    rfl

/-- What is fetched is well-formed (30_encoding R92). -/
theorem fetchCommand_wellFormed {s t : State} {i : Instr} (h : fetchCommand s = .ok (i, t)) : i.wellFormed = true := by
  obtain ⟨b, s1, -, ⟨hb, rfl, -⟩ | ⟨hb, lo, hi, s2, -, -, rfl⟩⟩ := fetchCommand_ok h
  · exact (decodeCommand_short b hb).1
  · exact (encode_decodeCommand_long hb lo hi).1

/-- Settles O29: a region that is entered has at least four bytes, so a REF there is whole and nested, a fault. -/
theorem nextEventReturnsWithinTwoDecodeSteps : Obligations.NextEventReturnsWithinTwoDecodeSteps := by
  intro s ha hv
  obtain ⟨t, hstep, hidle | ⟨len, off, u, hf, -, rfl⟩⟩ := step_nextEvent_returns_or_enters ha hv
  · exact ⟨t, hstep, .inl hidle⟩
  · refine ⟨_, hstep, .inr ?_⟩
    have hwf := fetchCommand_wellFormed hf
    obtain ⟨hlen, -⟩ : 4 ≤ len.toNat ∧ len.toNat ≤ 51 := of_decide_eq_true hwf
    have hactive : u.active = .nextEvent := by
      obtain ⟨p, r, w, c, rfl⟩ := fetchCommand_ok_frame hf
      exact ha
    have hloop : u.csd.loopValid = false := (fetchCommand_ok_keeps_stream_loopValid hf).2.trans hv
    obtain ⟨t', hstep', hidle | ⟨len', off', u', hf', hr', -⟩⟩ :=
      step_nextEvent_returns_or_enters (s := yieldNothing (enterRegion off.toNat len.toNat u)) hactive hloop
    · exact ⟨t', hstep', hidle⟩
    · have hheld := fetchCommand_keeps_resumeValid (s := yieldNothing (enterRegion off.toNat len.toNat u))
        (show 3 ≤ len.toNat by omega) hf'
      rw [hr'] at hheld
      cases hheld

/-! ### A stream with a loop context never ends -/

/-- With a loop context END jumps: no command ends the stream or yields EndOfStream. -/
theorem CommandEffect.never_ends {i : Instr} {s t : State} (h : CommandEffect s i t) (hv : s.csd.loopValid = true) :
    (t.csd.status = .ended → s.csd.status = .ended) ∧ t.csd.yielded ≠ .event .endOfStream := by
  cases h with
  | ended hfree => exact absurd hfree (by simp [hv])
  | fault i c o f => exact ⟨nofun, nofun⟩
  | latch | latchNctrl | data | jump | capture | loopAgain | enter | eof => exact ⟨id, nofun⟩

theorem Delivery.mode_ending {s t : State} (h : Delivery s t) (hy : s.csd.yielded ≠ .event .endOfStream)
    (hmode : t.seq.mode = .ending) : s.seq.mode = .ending := by
  cases h with
  | goesOn | returns => exact hmode
  | waits | stops => cases hmode
  | submits he => exact absurd he hy
  | ends he => exact absurd he hy

theorem HostEffect.never_ends {s t : State} (h : HostEffect s t) :
    (t.csd.status = .ended → s.csd.status = .ended) ∧ (t.seq.mode = .ending → s.seq.mode = .ending) := by
  cases h with
  | reset => exact ⟨nofun, nofun⟩
  | starts | stops | granted => exact ⟨id, nofun⟩
  | returns | begins | lends => exact ⟨id, id⟩
  | renders n dst t hr =>
    rw [render_frame hr]
    exact ⟨id, id⟩
  | waits t hr =>
    rw [render_frame hr]
    simp only [afterWaitingRender]
    split
    · exact ⟨id, nofun⟩
    · split <;> exact ⟨id, nofun⟩

/-- Settles O30: END jumps, so neither Ended nor Ending is entered. -/
theorem loopStreamNeverEnds : Obligations.LoopStreamNeverEnds := by
  intro s t hv h
  obtain ⟨-, -, rfl⟩ | ⟨c, rest, -, -, hcall⟩ | ⟨-, hdecode⟩ := step_cases h
  · exact ⟨id, id⟩
  · exact HostEffect.never_ends (s := { s with calls := rest }) (hostCall_effect hcall)
  · obtain ⟨u, hf, rfl⟩ | ⟨i, u, v, hf, heffect, rfl⟩ := decodeStep_effect hdecode
    · obtain ⟨p, r, w, c, rfl⟩ := fetchCommand_error_frame hf
      rw [(deliver_frame _).1]
      exact ⟨nofun, (deliver_delivery (raiseFault _ _ _ _)).mode_ending nofun⟩
    · obtain ⟨x, hframe⟩ := heffect.frame
      obtain ⟨p, r, w, c, rfl⟩ := fetchCommand_ok_frame hf
      obtain ⟨hstatus, hyield⟩ := heffect.never_ends hv
      rw [(deliver_frame v).1]
      refine ⟨hstatus, fun hmode => ?_⟩
      have hkept := (deliver_delivery v).mode_ending hyield hmode
      rwa [hframe] at hkept

end Sys2Proof.Machine

/-! ## SEQ (44_sequencer R211 to R219) -/

namespace Sys2Proof.Machine

theorem finish_stopPlayback_of_idle {s : State} (h : s.active = .idle) (r : Return) (t : Terminal) :
    finish r (stopPlayback t s) = { s with
      ret := r, pcm := if s.seq.haveBuf = true then PcmBuffer.empty else s.pcm
      seq := { mode := .idle, budget := 0, haveBuf := false, cursor := 0, term := t } } :=
  finish_of_idle (s := stopPlayback t s) h r

/-- Settles O56: each call in the state it acts in and in the others. -/
theorem startAndCancelSwitchPlayback : Obligations.StartAndCancelSwitchPlayback := by
  intro s rest ha
  refine ⟨fun hc => ?_, fun hc => ?_⟩
  · rw [step_call ha hc]
    constructor
    · intro hidle
      simp only [hostCall, startPlayback, if_pos hidle]
      rw [finish_of_idle]
      exact ha
    · intro hbusy
      simp only [hostCall, startPlayback, if_neg hbusy]
      rw [finish_of_idle (s := { s with calls := rest }) ha]
  · rw [step_call ha hc]
    constructor
    · intro hbusy
      simp only [hostCall, cancelPlayback, if_neg hbusy]
      rw [finish_stopPlayback_of_idle (s := { s with calls := rest }) ha]
    · intro hidle
      simp only [hostCall, cancelPlayback, if_pos hidle]
      rw [finish_of_idle (s := { s with calls := rest }) ha]

/-- Settles O57: `deliver` to a Tick, yield by yield. -/
theorem commandProcessingActsOnEvents : Obligations.CommandProcessingActsOnEvents := by
  intro s ha
  refine ⟨fun t hf => ?_, fun t u i hf he => ?_⟩
  · rw [step_of_fetchCommand_error (tick_ne_idle ha) hf]
    obtain ⟨p, r, w, c, ht⟩ := fetchCommand_error_frame hf
    have hactive : t.active = .tick := by rw [ht]; exact ha
    have hseq : t.seq = s.seq := by rw [ht]
    have hpcm : t.pcm = s.pcm := by rw [ht]
    rw [deliver_tick_fault (s := raiseFault _ _ _ t) hactive rfl, ← hseq, ← hpcm]
    rfl
  · rw [step_of_fetchCommand_ok (tick_ne_idle ha) hf he]
    have hactive : u.active = .tick := (command_keeps_active hf he).trans ha
    obtain ⟨x, hu⟩ := command_frame hf he
    have hseq : u.seq = s.seq := by rw [hu]
    have hpcm : u.pcm = s.pcm := by rw [hu]
    have hparams : u.params = s.params := by rw [hu]
    have hsubmitted : u.submitted = s.submitted := by rw [hu]
    rw [← hseq, ← hpcm, ← hparams, ← hsubmitted]
    refine ⟨fun hy => ?_, fun r v hy => ?_, fun hy => ?_, fun f hy => ?_, fun hy hbuf hcursor => ?_,
      fun hy hnone => ?_, fun c o f hy => ?_⟩
    · rw [deliver_nothing hy]
    · rw [deliver_tick_event hactive hy]; rfl
    · rw [deliver_tick_event hactive hy]; rfl
    · rw [deliver_tick_event hactive hy]; rfl
    · rw [deliver_tick_event hactive hy]
      simp only [sequenceEvent, if_pos (And.intro hbuf hcursor)]
      rfl
    · rw [deliver_tick_event hactive hy]
      simp only [sequenceEvent, if_neg hnone]
      rfl
    · rw [deliver_tick_fault hactive hy]; rfl

/-- Settles O58: Idle, and the two branches of `tickCommandProcessing`. -/
theorem tickBeginsByState : Obligations.TickBeginsByState := by
  intro s granted allIdle rest ha hc
  rw [step_call ha hc]
  refine ⟨fun hmode => ?_, fun hmode hrun => ?_, fun hmode hnot => ?_⟩
  · simp only [hostCall, tick, hmode]
    rw [finish_of_idle (s := { s with calls := rest }) ha]
  · simp only [hostCall, tick, hmode, tickCommandProcessing, if_pos hrun]
  · simp only [hostCall, tick, hmode, tickCommandProcessing, if_neg hnot]
    rw [finish_stopPlayback_of_idle (s := { s with calls := rest }) ha]

/-- With the budget used up Waiting goes back to CommandProcessing. -/
theorem afterWaitingRender_of_le {n : Nat} {s : State} (h : s.seq.budget ≤ n) :
    afterWaitingRender n s =
      { s with seq := { s.seq with cursor := s.seq.cursor + n, budget := 0, mode := .commandProcessing } } := by
  simp only [afterWaitingRender, Nat.sub_eq_zero_of_le h, if_true]

/-- With budget left Waiting submits the buffer it holds. -/
theorem afterWaitingRender_of_lt {n : Nat} {s : State} (h : n < s.seq.budget) (hb : s.seq.haveBuf = true) :
    afterWaitingRender n s = { s with
      submitted := s.submitted ++ [s.pcm], pcm := PcmBuffer.empty
      seq := { s.seq with
        cursor := s.seq.cursor + n, budget := s.seq.budget - n, haveBuf := false, mode := .bufferWaiting } } := by
  simp only [afterWaitingRender, if_neg (Nat.sub_ne_zero_of_lt h), hb, if_true]
  rfl

theorem afterWaitingRender_of_lt_noBuffer {n : Nat} {s : State} (h : n < s.seq.budget) (hb : s.seq.haveBuf = false) :
    afterWaitingRender n s = { s with seq := { s.seq with
      cursor := s.seq.cursor + n, budget := s.seq.budget - n, mode := .bufferWaiting } } := by
  simp only [afterWaitingRender, if_neg (Nat.sub_ne_zero_of_lt h), hb, Bool.false_eq_true, if_false]

/-- Settles O59: `min(space, budget)` uses the budget up exactly when the budget fits the space. -/
theorem waitingRendersWhatFits : Obligations.WaitingRendersWhatFits := by
  intro s t granted allIdle rest ha hc hmode space n hrender
  have hframe := render_frame hrender
  have hseq : t.seq = s.seq := by rw [hframe]
  have hsubmitted : t.submitted = s.submitted := by rw [hframe]
  have hidle : t.active = .idle := by rw [hframe]; exact ha
  have hstep : step s = .next (finish .done (afterWaitingRender n t)) := by
    rw [step_call ha hc]
    simp only [hostCall, tick, hmode, tickWaiting]
    exact andThen_eq_next.mpr ⟨t, hrender, rfl⟩
  rw [hstep, ← hseq, ← hsubmitted]
  refine ⟨fun hfits => ?_, fun hmore hbuf => ?_, fun hmore hbuf => ?_⟩
  · rw [afterWaitingRender_of_le (n := n) (Nat.le_min.mpr ⟨hfits, by rw [hseq]⟩), finish_of_idle]
    exact hidle
  · rw [afterWaitingRender_of_lt (n := n) (lt_of_le_of_lt (Nat.min_le_left _ _) hmore) hbuf, finish_of_idle]
    exact hidle
  · rw [afterWaitingRender_of_lt_noBuffer (n := n) (lt_of_le_of_lt (Nat.min_le_left _ _) hmore) hbuf, finish_of_idle]
    exact hidle

/-- Settles O60: each answer of the sink in each of the two states. -/
theorem sinkAnswersMovePlayback : Obligations.SinkAnswersMovePlayback := by
  intro s granted allIdle rest ha hc
  rw [step_call ha hc]
  refine ⟨fun hmode hyes => ?_, fun hmode hno => ?_, fun hmode hyes => ?_, fun hmode hno => ?_⟩
  · simp only [hostCall, tick, hmode, tickBufferWaiting, hyes, if_true]
    rw [finish_of_idle]
    · rfl
    · exact ha
  · simp only [hostCall, tick, hmode, tickBufferWaiting, hno, Bool.false_eq_true, if_false]
    rw [finish_of_idle (s := { s with calls := rest }) ha]
  · simp only [hostCall, tick, hmode, tickEnding, hyes, if_true]
    rw [finish_stopPlayback_of_idle (s := { s with calls := rest }) ha]
  · simp only [hostCall, tick, hmode, tickEnding, hno, Bool.false_eq_true, if_false]
    rw [finish_of_idle (s := { s with calls := rest }) ha]

end Sys2Proof.Machine

/-! ## CSD run by itself (41_stream_control R139, 42_back_reference R159, R160) -/

namespace Sys2Proof.Safety

open Sys2Proof.Machine

/-! ### One DecodeStep of CSD -/

/-- `s` with no host operation in progress: what `csdStep` decodes from. -/
def quiet (s : State) : State := { s with active := .idle }

/-- The operation in progress does not enter into a Fetch. -/
theorem fetch_quiet {s t : State} {b : Byte} (h : fetch s = .ok (b, t)) : fetch (quiet s) = .ok (b, quiet t) := by
  have hrestore : restoreRegion (quiet s) = quiet (restoreRegion s) := by
    rw [restoreRegion_eq, restoreRegion_eq]
    rfl
  obtain ⟨hrem, hpos, rfl, rfl⟩ := fetch_ok h
  rw [restoreRegion_len] at hpos
  rw [fetch_eq, hrestore, restoreRegion_stream]
  exact if_neg (not_or.mpr ⟨hrem, Nat.not_le.mpr hpos⟩)

theorem fetchCommand_quiet {s t : State} {i : Instr} (h : fetchCommand s = .ok (i, t)) :
    fetchCommand (quiet s) = .ok (i, quiet t) := by
  have hmark : markCommand (quiet s) = quiet (markCommand s) := by
    rw [markCommand_eq, markCommand_eq]
    rfl
  obtain ⟨b, s1, h1, ⟨hb, rfl, rfl⟩ | ⟨hb, lo, hi, s2, h2, h3, rfl⟩⟩ := fetchCommand_ok h
  · exact fetchCommand_of_short (by rw [hmark]; exact fetch_quiet h1) hb
  · exact fetchCommand_of_long (by rw [hmark]; exact fetch_quiet h1) hb (fetch_quiet h2) (fetch_quiet h3)

theorem csdStep_of_not_running {s : State} (h : s.csd.status ≠ .running) : csdStep s = s :=
  if_neg h

/-- In Running `csdStep` is the DecodeStep. -/
theorem decodeStep_quiet {s : State} (hrun : s.csd.status = .running) : decodeStep (quiet s) = .next (csdStep s) := by
  obtain ⟨t, ht⟩ := decodeStep_total (quiet s)
  have hstep : csdStep s = t := by
    unfold csdStep
    rw [if_pos hrun, show decodeStep { s with active := .idle } = .next t from ht]
  rw [ht, hstep]

/-- In Running a DecodeStep of CSD is the fetched command: no operation waits for its yield. -/
theorem exec_csdStep {s u : State} {i : Instr} (hrun : s.csd.status = .running)
    (hf : fetchCommand (quiet s) = .ok (i, u)) : exec i u = .next (csdStep s) := by
  obtain ⟨v, he, -⟩ := exec_effect i u
  have hdecode : decodeStep (quiet s) = .next (deliver v) := by rw [decodeStep, hf]; simp only [he, andThen_next]
  rw [decodeStep_quiet hrun, deliver_idle (command_keeps_active hf he)] at hdecode
  rw [he, hdecode]

theorem decoded_eq_some {s u : State} {i : Instr} (h : decoded s = some (i, u)) :
    s.csd.status = .running ∧ fetchCommand s = .ok (i, u) := by
  unfold decoded at h
  split at h
  · next hrun =>
    split at h
    · next r hf => cases h; exact ⟨hrun, hf⟩
    · cases h
  · cases h

theorem exec_of_decoded {s u : State} {i : Instr} (h : decoded s = some (i, u)) :
    exec i (quiet u) = .next (csdStep s) := by
  obtain ⟨hrun, hf⟩ := decoded_eq_some h
  exact exec_csdStep hrun (fetchCommand_quiet hf)

/-- The DecodeStep of a decoded command is what the command does. -/
theorem csdStep_of_decoded {s u t : State} {i : Instr} (h : decoded s = some (i, u)) (he : exec i (quiet u) = .next t) :
    csdStep s = t :=
  Host.Outcome.next.inj ((exec_of_decoded h).symm.trans he)

/-- Fetching a command leaves the status, the loop context, the stream and LEN. -/
theorem fetchCommand_keeps_status_loop_stream {s u : State} {i : Instr} (h : fetchCommand s = .ok (i, u)) :
    u.csd.status = s.csd.status ∧ u.csd.loopValid = s.csd.loopValid ∧ u.csd.loopPos = s.csd.loopPos ∧
      u.csd.loopRem = s.csd.loopRem ∧ u.stream = s.stream ∧ u.len = s.len := by
  obtain ⟨p, r, w, c, rfl⟩ := fetchCommand_ok_frame h
  exact ⟨rfl, rfl, rfl, rfl, rfl, rfl⟩

/-- A command fetched at top level leaves a pair that ends at LEN. -/
theorem TopRegionEndsAtLen.fetched_pair {s u : State} {i : Instr} (h : TopRegionEndsAtLen s)
    (hf : fetchCommand s = .ok (i, u)) (htop : u.csd.resumeValid = false) : u.csd.pos + u.csd.rem = s.len := by
  obtain ⟨hok, -⟩ := fetchCommand_keeps (fun _ hs => hs) (fun _ hs => hs.after_restoreRegion)
    (fun _ hs hr _ => hs.after_consume hr) h
  obtain ⟨hpair, -⟩ := hok i u hf
  obtain ⟨-, -, -, -, -, hlen⟩ := fetchCommand_keeps_status_loop_stream hf
  simpa [htop, hlen] using hpair

/-! ### Many DecodeSteps -/

theorem csdRun_of_not_running {s : State} (h : s.csd.status ≠ .running) (k : Nat) : csdRun k s = s := by
  induction k with
  | zero => rfl
  | succ k ih => rw [csdRun, csdStep_of_not_running h, ih]

theorem csdRun_succ (k : Nat) (s : State) : csdRun (k + 1) s = csdStep (csdRun k s) := by
  induction k generalizing s with
  | zero => rfl
  | succ k ih => rw [csdRun, ih, csdRun]

/-- CSD that runs after `k + 1` DecodeSteps ran after `k`. -/
theorem running_of_running_succ {k : Nat} {s : State} (h : (csdRun (k + 1) s).csd.status = .running) :
    (csdRun k s).csd.status = .running := by
  by_contra hnot
  rw [csdRun_succ, csdStep_of_not_running hnot] at h
  exact hnot h

theorem csdRun_keeps_loop_context (k : Nat) {s : State} (hv : s.csd.loopValid = true) :
    SameLoopContext s (csdRun k s) := by
  induction k with
  | zero => exact ⟨hv, rfl, rfl⟩
  | succ k ih =>
    obtain ⟨hk, hpos, hrem⟩ := ih
    rw [csdRun_succ]
    by_cases hrun : (csdRun k s).csd.status = .running
    · obtain ⟨hnext, hpos', hrem'⟩ := decodeStep_keeps_loop_context (s := quiet (csdRun k s)) hk (decodeStep_quiet hrun)
      exact ⟨hnext, hpos'.trans hpos, hrem'.trans hrem⟩
    · rw [csdStep_of_not_running hrun]
      exact ⟨hk, hpos, hrem⟩

/-! ### Loop splicing -/

/-- Settles O42: the LOOP's snapshot is the pair after it, every DecodeStep keeps it, and END takes the pair from it. -/
theorem loopJumpRestoresTheStateAfterLoop : Obligations.LoopJumpRestoresTheStateAfterLoop := by
  intro s u v k hloop htop hfree hend hvtop after again
  obtain ⟨hrun, hf⟩ := decoded_eq_some hloop
  obtain ⟨hurun, -⟩ := fetchCommand_keeps_status_loop_stream hf
  have hafter : after = emit .loopStart (captureLoop (quiet u)) :=
    csdStep_of_decoded hloop (exec_loop_of_not_loopValid (s := quiet u) hfree)
  obtain ⟨hkept, hkpos, hkrem⟩ := csdRun_keeps_loop_context k (s := after) (by rw [hafter]; rfl)
  obtain ⟨hkrun, hvf⟩ := decoded_eq_some hend
  obtain ⟨hvrun, hvloop, hvpos, hvrem, -⟩ := fetchCommand_keeps_status_loop_stream hvf
  have hagain : again = yieldNothing (jumpLoop (quiet v)) :=
    (csdRun_succ k after).trans
      (csdStep_of_decoded hend (exec_endStream_of_loopValid (s := quiet v) (hvloop.trans hkept)))
  have hstatus : v.csd.status = u.csd.status := by rw [hvrun, hkrun, hurun, hrun]
  have hpos : v.csd.loopPos = after.csd.loopPos := hvpos.trans hkpos
  have hrem : v.csd.loopRem = after.csd.loopRem := hvrem.trans hkrem
  have hends : TopRegionEndsAtLen s → u.csd.pos + u.csd.rem = s.len := fun h => h.fetched_pair hf htop
  rw [hafter] at hpos hrem ⊢
  rw [hagain]
  exact ⟨hpos, hrem, hvtop.trans htop.symm, hvloop.trans hkept, hpos, hrem, hstatus, hends⟩

/-! ### Commands that leave the pair where their fetch put it -/

/-- The command may move the pair or write a context: END, LOOP and REF. -/
def isSteering : Instr → Bool
  | .endStream | .loop | .ref _ _ => true
  | .latchTone0 _ | .latchAtt0 _ | .latchTone1 _ | .latchAtt1 _ | .latchTone2 _ | .latchAtt2 _ => false
  | .latchNctrl _ | .latchNatt _ | .data _ | .rsvd _ | .eof _ => false

/-- A byte that does not steer the stream is a command of one byte that does not. -/
theorem isSteering_decodeCommand (b : Byte) (h : steersStream b = false) :
    commandLength b = 1 ∧ isSteering (decodeCommand b 0 0) = false := by
  revert b
  decide

/-- The command leaves the pair and both contexts alone: it does not steer, or it is an END with no loop context. -/
def StaysInPlace (s : State) (i : Instr) : Prop :=
  isSteering i = false ∨ (i = .endStream ∧ s.csd.loopValid = false)

theorem keeps_place_of_effect {i : Instr} {s t : State} (h : CommandEffect s i t) (hi : StaysInPlace s i) :
    t.csd.pos = s.csd.pos ∧ t.csd.rem = s.csd.rem ∧ t.csd.resumeValid = s.csd.resumeValid ∧
      t.csd.loopValid = s.csd.loopValid ∧ t.csd.cmdAt = s.csd.cmdAt := by
  cases h with
  | latch | latchNctrl | data | fault | ended | loopAgain | eof => exact ⟨rfl, rfl, rfl, rfl, rfl⟩
  | jump hv =>
    obtain hplain | ⟨-, hfree⟩ := hi
    · cases hplain
    · exact absurd hv (by simp [hfree])
  | capture => obtain hplain | ⟨hend, -⟩ := hi <;> contradiction
  | enter => obtain hplain | ⟨hend, -⟩ := hi <;> contradiction

/-- A one-byte command at `pos`, inside the region and the buffer, no return due. -/
theorem fetchCommand_at_pos {s : State} (hr : s.csd.rem ≠ 0) (hp : s.csd.pos < s.len)
    (hb : commandLength (memRead s.stream s.csd.pos) = 1) :
    fetchCommand s = .ok (decodeCommand (memRead s.stream s.csd.pos) 0 0, pastCommand 1 s) :=
  fetchCommand_of_short (fetch_markCommand_inside hr hp) hb

/-- The DecodeStep of a command that stays in place consumes its byte. -/
theorem csdStep_in_place {s : State} (hrun : s.csd.status = .running) (hr : s.csd.rem ≠ 0) (hp : s.csd.pos < s.len)
    (hb : commandLength (memRead s.stream s.csd.pos) = 1)
    (hi : StaysInPlace s (decodeCommand (memRead s.stream s.csd.pos) 0 0)) :
    (csdStep s).stream = s.stream ∧ (csdStep s).len = s.len ∧ (csdStep s).csd.pos = s.csd.pos + 1 ∧
      (csdStep s).csd.rem = s.csd.rem - 1 ∧ (csdStep s).csd.resumeValid = s.csd.resumeValid ∧
      (csdStep s).csd.loopValid = s.csd.loopValid := by
  have heffect := effect_of_exec (exec_csdStep hrun (fetchCommand_at_pos (s := quiet s) hr hp hb))
  obtain ⟨x, hframe⟩ := heffect.frame
  obtain ⟨hpos, hrem, hresume, hloop, -⟩ := keeps_place_of_effect heffect hi
  exact ⟨by rw [hframe]; rfl, by rw [hframe]; rfl, hpos, hrem, hresume, hloop⟩

/-! ### The linear scan -/

/-- CSD stands at offset `j` of a buffer, at top level. -/
def ScansAt (bytes : List Byte) (j : Nat) (s : State) : Prop :=
  s.stream = Memory.ofBytes bytes ∧ s.len = bytes.length ∧ s.csd.pos = j ∧ s.csd.rem = bytes.length - j ∧
    s.csd.resumeValid = false

theorem ScansAt.memRead_eq {bytes : List Byte} {j : Nat} {s : State} (h : ScansAt bytes j s) (hj : j < bytes.length) :
    memRead s.stream s.csd.pos = bytes[j] := by
  obtain ⟨hstream, -, hpos, -⟩ := h
  rw [hstream, hpos, memRead_ofBytes_getElem bytes hj]

theorem ScansAt.after_csdStep {bytes : List Byte} {j : Nat} {s : State} (h : ScansAt bytes j s) (hj : j < bytes.length)
    (hrun : s.csd.status = .running) (hb : steersStream bytes[j] = false) : ScansAt bytes (j + 1) (csdStep s) := by
  obtain ⟨hlength, hplain⟩ := isSteering_decodeCommand _ hb
  have hbyte := h.memRead_eq hj
  obtain ⟨hstream, hlen, hpos, hrem, hresume⟩ := h
  obtain ⟨hstream', hlen', hpos', hrem', hresume', -⟩ := csdStep_in_place hrun (by omega) (by omega)
    (by rw [hbyte]; exact hlength) (.inl (by rw [hbyte]; exact hplain))
  exact ⟨hstream'.trans hstream, hlen'.trans hlen, by omega, by omega, hresume'.trans hresume⟩

theorem scansAt_csdRun (p : Params) (bytes : List Byte) {k : Nat} (hk : k ≤ bytes.length)
    (hplain : ∀ j, (hj : j < k) → steersStream bytes[j] = false)
    (hrun : (csdRun k (sessionStart p bytes)).csd.status = .running) :
    ScansAt bytes k (csdRun k (sessionStart p bytes)) := by
  induction k with
  | zero => exact ⟨rfl, rfl, rfl, rfl, rfl⟩
  | succ k ih =>
    have hbefore := running_of_running_succ hrun
    rw [csdRun_succ]
    have hscan := ih (by omega) (fun j hj => hplain j (by omega)) hbefore
    exact hscan.after_csdStep (by omega) hbefore (hplain k (by omega))

/-- Settles O40: no command before offset `k` moves the pair but past its own byte. -/
theorem linearScanReadsTheStreamInOrder : Obligations.LinearScanReadsTheStreamInOrder := by
  intro p bytes k hk hplain hlast hrun
  have hscan := scansAt_csdRun p bytes hk.le hplain hrun
  have hbyte := hscan.memRead_eq hk
  obtain ⟨-, hlen, hpos, hrem, -⟩ := hscan
  have hlength : commandLength bytes[k] = 1 := by
    obtain hsteer | hzero := hlast
    · exact (isSteering_decodeCommand _ hsteer).1
    · rw [hzero]
      rfl
  have hf := fetchCommand_at_pos (s := csdRun k (sessionStart p bytes)) (by omega) (by omega)
    (by rw [hbyte]; exact hlength)
  rw [hbyte] at hf
  have hdecoded : decoded (csdRun k (sessionStart p bytes)) =
      some (decodeCommand bytes[k] 0 0, pastCommand 1 (csdRun k (sessionStart p bytes))) := by
    simp only [decoded, if_pos hrun, hf]
  exact ⟨_, hdecoded, hpos, congrArg (· + 1) hpos⟩

/-! ### A region decoded in place and by reference -/

/-- `s` as a decoder inside a region, with the return pair given and a yield of its own. -/
def withReturn (pos rem : Nat) (y : Yield) (s : State) : State :=
  { s with csd := { s.csd with resumeValid := true, resumePos := pos, resumeRem := rem, yielded := y } }

/-- A command that stays in place does the same with a return pair held. -/
theorem exec_withReturn {i : Instr} {s t : State} (hi : StaysInPlace s i) (h : exec i s = .next t) (pos rem : Nat)
    (y : Yield) : exec i (withReturn pos rem y s) = .next (withReturn pos rem t.csd.yielded t) := by
  cases i with
  | latchTone0 | latchAtt0 | latchTone1 | latchAtt1 | latchTone2 | latchAtt2 | latchNctrl | latchNatt | rsvd | eof =>
    cases h
    rfl
  | data d =>
    by_cases htone : ∃ r, s.csd.latched = some r ∧ isTone r = true
    · obtain ⟨r, hl, hr⟩ := htone
      rw [exec_data_of_tone hl hr] at h
      rw [exec_data_of_tone (s := withReturn pos rem y s) hl hr]
      cases h
      rfl
    · have hnot : ∀ r, s.csd.latched = some r → isTone r = false := by simpa using htone
      rw [exec_data_of_not_tone hnot] at h
      rw [exec_data_of_not_tone (s := withReturn pos rem y s) hnot]
      cases h
      rfl
  | endStream =>
    obtain hplain | ⟨-, hfree⟩ := hi
    · cases hplain
    · rw [exec_endStream_of_not_loopValid hfree] at h
      rw [exec_endStream_of_not_loopValid (s := withReturn pos rem y s) hfree]
      cases h
      rfl
  | loop | ref => obtain hplain | ⟨hend, -⟩ := hi <;> contradiction

/-- `x` decodes by reference what `y` decodes in place: they differ in the resume context, in the last yield and in the
operation in progress. -/
def Mirrors (pos rem : Nat) (x y : State) : Prop :=
  ∃ yielded, quiet x = withReturn pos rem yielded (quiet y)

/-- Mirrored decoders agree on the rest of CSD, on RF and on SYN. -/
theorem Mirrors.agree {pos rem : Nat} {x y : State} (h : Mirrors pos rem x y) :
    x.rf = y.rf ∧ x.syn = y.syn ∧ x.len = y.len ∧
      ∃ yielded, x.csd = { y.csd with
        resumeValid := true, resumePos := pos, resumeRem := rem, yielded := yielded } := by
  obtain ⟨yielded, h⟩ := h
  have hrf := congrArg State.rf h
  have hsyn := congrArg State.syn h
  have hlen := congrArg State.len h
  have hcsd := congrArg State.csd h
  exact ⟨hrf, hsyn, hlen, yielded, hcsd⟩

/-- An exhausted region gives the return pair back. -/
theorem Mirrors.restoreRegion_csd {pos rem : Nat} {x y : State} (h : Mirrors pos rem x y) (hr : y.csd.rem = 0) :
    (restoreRegion x).csd = { x.csd with pos := pos, rem := rem, resumeValid := false } := by
  obtain ⟨-, -, -, yielded, hcsd⟩ := h.agree
  rw [restoreRegion_of_due (by rw [hcsd]; exact hr) (by rw [hcsd]), hcsd]

/-- The byte is, in command position, no LOOP, no REF and no END that would jump. -/
def PlainAt (s : State) (b : Byte) : Prop :=
  b.toNat ≠ 1 ∧ ¬(0x08 ≤ b.toNat ∧ b.toNat ≤ 0x37) ∧ (b.toNat = 0 → s.csd.loopValid = false)

theorem PlainAt.staysInPlace {s : State} {b : Byte} (h : PlainAt s b) :
    commandLength b = 1 ∧ StaysInPlace s (decodeCommand b 0 0) := by
  obtain ⟨hloop, href, hend⟩ := h
  by_cases hzero : b.toNat = 0
  · obtain rfl : b = 0 := BitVec.eq_of_toNat_eq hzero
    exact ⟨rfl, .inr ⟨rfl, hend hzero⟩⟩
  · have hsteer : steersStream b = false := by simp [steersStream, hzero, hloop] at href ⊢; exact href
    obtain ⟨hlength, hplain⟩ := isSteering_decodeCommand b hsteer
    exact ⟨hlength, .inl hplain⟩

/-- Mirrored decoders in Running, with a plain byte to come, mirror each other after it and yield the same. -/
theorem Mirrors.after_csdStep {pos rem : Nat} {x y : State} (h : Mirrors pos rem x y) (hrun : y.csd.status = .running)
    (hr : y.csd.rem ≠ 0) (hp : y.csd.pos < y.len) (hb : PlainAt y (memRead y.stream y.csd.pos)) :
    Mirrors pos rem (csdStep x) (csdStep y) ∧ (csdStep x).csd.yielded = (csdStep y).csd.yielded := by
  obtain ⟨hlength, hi⟩ := hb.staysInPlace
  obtain ⟨-, -, -, yielded, hcsd⟩ := h.agree
  have hxrun : x.csd.status = .running := by rw [hcsd]; exact hrun
  obtain ⟨yielded, hx⟩ := h
  have hey := exec_csdStep hrun (fetchCommand_at_pos (s := quiet y) hr hp hlength)
  have hfx := fetchCommand_at_pos (s := withReturn pos rem yielded (quiet y)) hr hp hlength
  rw [← hx] at hfx
  have hex := exec_csdStep hxrun hfx
  rw [hx] at hex
  have hmirror := exec_withReturn (s := pastCommand 1 (quiet y)) hi hey pos rem yielded
  have hxy : csdStep x = withReturn pos rem (csdStep y).csd.yielded (csdStep y) :=
    Host.Outcome.next.inj (hex.symm.trans hmirror)
  exact ⟨⟨(csdStep y).csd.yielded, by rw [hxy]; rfl⟩, by rw [hxy]; rfl⟩

/-- As long as the bytes in command position are plain, mirrored decoders give the same events, mirror each other, and
the one in place consumes one byte a DecodeStep. -/
theorem Mirrors.after_csdRun {pos rem k : Nat} {x y : State} (h : Mirrors pos rem x y) (hr : k ≤ y.csd.rem)
    (hp : y.csd.pos + k ≤ y.len)
    (hplain : ∀ j, j < k → (csdRun j y).csd.status = .running → PlainAt y (memRead y.stream (y.csd.pos + j))) :
    eventLog k x = eventLog k y ∧ Mirrors pos rem (csdRun k x) (csdRun k y) ∧
      ((csdRun k y).csd.status = .running → (csdRun k y).csd.rem = y.csd.rem - k) := by
  induction k generalizing x y with
  | zero => exact ⟨rfl, h, fun _ => rfl⟩
  | succ k ih =>
    have hstatus : x.csd.status = y.csd.status := by
      obtain ⟨-, -, -, yielded, hcsd⟩ := h.agree
      rw [hcsd]
    by_cases hrun : y.csd.status = .running
    · have hbyte := hplain 0 (Nat.succ_pos k) hrun
      obtain ⟨hlength, hi⟩ := hbyte.staysInPlace
      obtain ⟨hstream, hlen, hpos', hrem', -, hloop⟩ := csdStep_in_place hrun (by omega) (by omega) hlength hi
      obtain ⟨hnext, hyield⟩ := h.after_csdStep hrun (by omega) (by omega) hbyte
      obtain ⟨hevents, hmirrors, hconsumed⟩ := ih hnext (by omega) (by omega) (by
        intro j hj hrunj
        have hj' := hplain (j + 1) (by omega) hrunj
        unfold PlainAt
        rw [hstream, hpos', hloop, Nat.add_assoc, Nat.add_comm 1 j]
        exact hj')
      refine ⟨?_, hmirrors, fun hlast => ?_⟩
      · simp only [eventLog, hstatus, if_pos hrun, hyield, hevents]
      · exact (hconsumed hlast).trans (by omega)
    · have hxrun : x.csd.status ≠ .running := by rwa [hstatus]
      rw [csdRun_of_not_running hrun, csdRun_of_not_running hxrun]
      refine ⟨?_, h, fun hlast => absurd hlast hrun⟩
      simp only [eventLog, if_neg hrun, if_neg hxrun]

/-- A REF fetched at top level leaves the decoder there, one past its three bytes. -/
theorem fetchCommand_ref {s u : State} {len : BitVec 6} {off : BitVec 16}
    (hf : fetchCommand s = .ok (.ref len off, u)) (htop : (restoreRegion s).csd.resumeValid = false) :
    u.csd.resumeValid = false ∧ u.csd.pos = u.csd.cmdAt + 3 := by
  obtain ⟨b, s1, h1, ⟨hb, hi, -⟩ | ⟨-, lo, hi, s2, h2, h3, -⟩⟩ := fetchCommand_ok hf
  · have hbytes := (decodeCommand_short b hb).2
    rw [← hi] at hbytes
    simp [encode] at hbytes
  · have hfirst : s1.csd.resumeValid = false ∧ s1.csd.pos = s1.csd.cmdAt + 1 := by
      refine ⟨?_, (fetch_markCommand_ok h1).2⟩
      obtain ⟨-, -, -, rfl⟩ := fetch_ok h1
      rw [restoreRegion_markCommand]
      exact htop
    obtain ⟨hv, hpos⟩ := hfirst
    have e2 := fetch_ok_unrestored (by simp [hv]) h2
    have e3 := fetch_ok_unrestored (by simp [e2, hv]) h3
    rw [e3, e2]
    exact ⟨hv, by simp only [hpos]⟩

/-- Settles O41: the REF saves the pair after its bytes; from there on the two decoders mirror each other, and the
exhausted region gives the saved pair back. -/
theorem backReferenceIsTransparent : Obligations.BackReferenceIsTransparent := by
  intro s u len off href htop hinside inPlace k hk hplain
  obtain ⟨hrun, hf⟩ := decoded_eq_some href
  obtain ⟨huv, hupos⟩ := fetchCommand_ref hf htop
  obtain ⟨hlenlow, -⟩ : 4 ≤ len.toNat ∧ len.toNat ≤ 51 := of_decide_eq_true (fetchCommand_wellFormed hf)
  obtain ⟨-, huloop, -, -, hustream, hulen⟩ := fetchCommand_keeps_status_loop_stream hf
  have hentered : csdStep s = yieldNothing (enterRegion off.toNat len.toNat (quiet u)) :=
    csdStep_of_decoded href (exec_ref_enters (s := quiet u) (show off.toNat < u.len by omega) huv len)
  have hstart : Mirrors u.csd.pos u.csd.rem (csdStep s) inPlace := ⟨.nothing, by rw [hentered]; rfl⟩
  obtain ⟨hevents, hmirrors, hconsumed⟩ := hstart.after_csdRun (k := k) hk
    (show off.toNat + k ≤ u.len by omega) (by
      intro j hj hrunj
      unfold PlainAt
      rw [show inPlace.stream = s.stream from hustream, show inPlace.csd.loopValid = s.csd.loopValid from huloop]
      exact hplain j hj hrunj)
  have hlog : eventLog (k + 1) s = eventLog k inPlace := by
    simp only [eventLog, if_pos hrun, hevents]
    rw [hentered]
    rfl
  obtain ⟨hrf, hsyn, -, yielded, hcsd⟩ := hmirrors.agree
  refine ⟨hlog, hrf, hsyn, by rw [csdRun, hcsd], by rw [csdRun, hcsd], by rw [csdRun, hcsd], fun hlast hrunk => ?_⟩
  have hempty : (csdRun k inPlace).csd.rem = 0 := (hconsumed hrunk).trans (by rw [hlast]; exact Nat.sub_self _)
  rw [csdRun, hmirrors.restoreRegion_csd hempty]
  refine ⟨hupos, rfl, fun hends => ?_⟩
  have hpair := hends.fetched_pair hf huv
  show u.csd.rem = s.len - (u.csd.cmdAt + 3)
  omega

end Sys2Proof.Safety

/-! ## The clock, the channels and the shift register (43_synthesis R172 to R187) -/

namespace Sys2Proof.Machine

open Sys2Proof.Safety

/-! ### Clock conversion -/

/-- `n` ticks convert `n * (CLK div 16)` cycles, the remainder carried. -/
theorem clockRun_eq {p : Params} (h : 1 ≤ p.rate) (n : Nat) :
    clockRun p n = (n * (p.clk / 16) / p.rate, n * (p.clk / 16) % p.rate) := by
  induction n with
  | zero => simp [clockRun]
  | succ n ih =>
    have hsum : (n + 1) * (p.clk / 16) =
        p.rate * (n * (p.clk / 16) / p.rate) + (n * (p.clk / 16) % p.rate + p.clk / 16) := by
      rw [← Nat.add_assoc, Nat.div_add_mod, Nat.succ_mul]
    rw [clockRun, ih, clockStep_eq, hsum, Nat.mul_add_div h, Nat.mul_add_mod]

/-- Settles O43: `clockRun_eq`, whose quotient at `n` = RATE is exact. -/
theorem clockConversionLosesNoCycle : Obligations.ClockConversionLosesNoCycle := by
  intro p h
  refine ⟨clockStep_eq, clockRun_eq h, ?_⟩
  rw [clockRun_eq h, Nat.mul_div_cancel_left _ h, Nat.mul_mod_right]

/-! ### The reload loop of all four channels -/

/-- The loop behind `toneReload` and `noiseReload`: while the count is at or below 0, act and add the period. -/
def reload {α : Type} (act : α → α) (period : Nat) : Nat → Int → α → Int × α
  | 0, cnt, x => (cnt, x)
  | fuel + 1, cnt, x => if cnt ≤ 0 then reload act period fuel (cnt + period) (act x) else (cnt, x)

theorem toneReload_eq_reload (period fuel : Nat) (cnt : Int) (pol : Polarity) :
    toneReload period fuel cnt pol = reload flipPolarity period fuel cnt pol := by
  induction fuel generalizing cnt pol with
  | zero => rfl
  | succ fuel ih => rw [toneReload, reload, ih]

theorem noiseReload_eq_reload (mask : BitVec 16) (white : Bool) (period fuel : Nat) (cnt : Int) (lfsr : BitVec 16) :
    noiseReload mask white period fuel cnt lfsr = reload (shiftLfsr mask white) period fuel cnt lfsr := by
  induction fuel generalizing cnt lfsr with
  | zero => rfl
  | succ fuel ih => rw [noiseReload, reload, ih]

theorem reload_of_pos {α : Type} {act : α → α} {period fuel : Nat} {cnt : Int} {x : α} (h : 0 < cnt) :
    reload act period fuel cnt x = (cnt, x) := by
  cases fuel with
  | zero => rfl
  | succ fuel => rw [reload, if_neg (not_le.mpr h)]

/-- A loop that lands in 1..period after `k + 1` passes makes just these, given the fuel. -/
theorem reload_lands {α : Type} {act : α → α} {period k fuel : Nat} {cnt : Int} {x : α} (hfuel : k + 1 ≤ fuel)
    (hlow : 1 ≤ cnt + ((k + 1 : Nat) : Int) * period) (hhigh : cnt + ((k + 1 : Nat) : Int) * period ≤ period) :
    reload act period fuel cnt x = (cnt + ((k + 1 : Nat) : Int) * period, act^[k + 1] x) := by
  induction k generalizing cnt x fuel with
  | zero =>
    obtain ⟨fuel, rfl⟩ := Nat.exists_eq_add_of_le' hfuel
    simp only [Nat.zero_add, Nat.cast_one, one_mul] at hlow hhigh ⊢
    rw [reload, if_pos (by omega), reload_of_pos (by omega), Function.iterate_one]
  | succ k ih =>
    obtain ⟨fuel, rfl⟩ := Nat.exists_eq_add_of_le' hfuel
    have hpass : cnt + ((k + 1 + 1 : Nat) : Int) * period = cnt + period + ((k + 1 : Nat) : Int) * period := by
      push_cast
      ring
    have hmore : 0 ≤ ((k + 1 : Nat) : Int) * period := by positivity
    rw [hpass] at hlow hhigh ⊢
    rw [← Nat.add_assoc, reload, if_pos (by omega), ih (by omega) hlow hhigh, ← Function.iterate_succ_apply]

/-- With `k = ((-x) div P) + 1` the count `x + k * P` lies in 1..P. -/
theorem reload_target {period : Nat} {x : Int} (hp : 1 ≤ period) (hx : x ≤ 0) :
    1 ≤ x + (((-x).toNat / period + 1 : Nat) : Int) * period ∧
      x + (((-x).toNat / period + 1 : Nat) : Int) * period ≤ period := by
  obtain ⟨a, rfl⟩ : ∃ a : Nat, x = -a := ⟨(-x).toNat, by omega⟩
  have hdiv := Nat.div_add_mod a period
  have hmod := Nat.mod_lt a hp
  have htarget : -(a : Int) + ((a / period + 1 : Nat) : Int) * period = period - (a % period : Nat) := by
    rw [← hdiv]
    simp only [Nat.mul_add_mod, Nat.mod_mod, Nat.mul_add_div hp, Nat.mod_div_self, Nat.add_zero]
    push_cast
    ring
  simp only [neg_neg, Int.toNat_natCast]
  omega

/-- The whole loop, from a count at or below 0. -/
theorem reload_of_nonpos {α : Type} (act : α → α) {period : Nat} {cnt : Int} (x : α) (hp : 1 ≤ period) (hc : cnt ≤ 0) :
    reload act period (reloadFuel cnt) cnt x =
      (cnt + (((-cnt).toNat / period + 1 : Nat) : Int) * period, act^[(-cnt).toNat / period + 1] x) := by
  obtain ⟨hlow, hhigh⟩ := reload_target hp hc
  exact reload_lands (Nat.add_le_add_right (Nat.div_le_self _ _) 1) hlow hhigh

/-! ### Tone channels -/

theorem flipPolarity_involutive : Function.Involutive flipPolarity := by
  intro pol
  cases pol <;> rfl

theorem flipPolarity_iterate (k : Nat) (pol : Polarity) :
    flipPolarity^[k] pol = if k % 2 = 1 then flipPolarity pol else pol := by
  by_cases hodd : k % 2 = 1
  · rw [if_pos hodd, flipPolarity_involutive.iterate_odd (Nat.odd_iff.mpr hodd)]
  · rw [if_neg hodd, flipPolarity_involutive.iterate_even (Nat.even_iff.mpr (by omega)), id]

theorem toneStep_pinned {period : Nat} (h : period ≤ 1) (cycles : Nat) (cnt : Int) (pol : Polarity) :
    toneStep period cycles cnt pol = (cnt, .plus) := if_pos h

/-- Settles O44: the reload loop with the flip, whose iterates are its parity. -/
theorem toneChannelFollowsItsPeriod : Obligations.ToneChannelFollowsItsPeriod := by
  intro period cycles cnt pol x k
  refine ⟨fun h => toneStep_pinned h cycles cnt pol, fun h hpos => ?_, fun h hneg => ?_⟩
  · rw [toneStep, if_neg (by omega), toneReload_eq_reload, reload_of_pos hpos]
  · refine ⟨?_, reload_target (by omega) hneg⟩
    rw [toneStep, if_neg (by omega), toneReload_eq_reload, reload_of_nonpos flipPolarity pol (by omega) hneg,
      flipPolarity_iterate]

/-! ### The noise channel -/

theorem nctrl_setting (rf : RegFile) : (rf.nctrl.extractLsb' 0 2).toNat = rf.nctrl.toNat % 4 := by
  simp

/-- Settles O45: the four settings, and the reload loop with the shift. -/
theorem noiseChannelFollowsItsPeriod : Obligations.NoiseChannelFollowsItsPeriod := by
  constructor
  · intro p rf
    rw [← nctrl_setting]
    refine ⟨fun h => ?_, fun h => ?_, fun h => ?_, fun h => ?_⟩ <;> simp only [noisePeriod, h]
  · intro mask white period cycles cnt lfsr x k
    refine ⟨fun h => if_pos h, fun h hpos => ?_, fun h hneg => ?_⟩
    · rw [noiseStep, if_neg (by omega), noiseReload_eq_reload, reload_of_pos hpos]
    · refine ⟨?_, reload_target h hneg⟩
      rw [noiseStep, if_neg (by omega), noiseReload_eq_reload, reload_of_nonpos (shiftLfsr mask white) lfsr h hneg]

/-! ### The shift register -/

/-- The bit a shift feeds back. -/
def feedback (mask : BitVec 16) (white : Bool) (lfsr : BitVec 16) : Bool :=
  if white then parity (lfsr &&& mask) else lfsr.getLsbD 0

theorem shiftLfsr_toNat (mask : BitVec 16) (white : Bool) (lfsr : BitVec 16) :
    (shiftLfsr mask white lfsr).toNat = lfsr.toNat / 2 + 32768 * (feedback mask white lfsr).toNat := by
  have hlow : lfsr.toNat / 2 < 2 ^ 15 := by omega
  have hbits : (lfsr.extractLsb' 1 15).toNat = lfsr.toNat / 2 := by
    simp only [BitVec.extractLsb'_toNat, Nat.shiftRight_eq_div_pow, pow_one, Nat.mod_eq_of_lt hlow]
  change (BitVec.ofBool (feedback mask white lfsr) ++ lfsr.extractLsb' 1 15).toNat = _
  rw [BitVec.toNat_append, hbits, BitVec.toNat_ofBool, Nat.shiftLeft_eq, Nat.mul_comm,
    ← Nat.two_pow_add_eq_or_of_lt hlow, Nat.add_comm]

theorem getLsbD_zero_toNat (v : BitVec 16) : (v.getLsbD 0).toNat = v.toNat % 2 := by
  rw [← BitVec.testBit_toNat, Nat.toNat_testBit, pow_zero, Nat.div_one]

/-- The population count is the sum of the bits. -/
theorem length_filter_getLsbD (v : BitVec 16) (n : Nat) :
    ((List.range n).filter v.getLsbD).length = ∑ i ∈ Finset.range n, v.toNat / 2 ^ i % 2 := by
  induction n with
  | zero => rfl
  | succ n ih =>
    rw [List.range_succ, List.filter_append, List.length_append, ih, Finset.sum_range_succ, ← Nat.toNat_testBit,
      BitVec.testBit_toNat]
    cases h : v.getLsbD n <;> simp [h]

theorem parity_toNat (v : BitVec 16) : (parity v).toNat = (∑ i ∈ Finset.range 16, v.toNat / 2 ^ i % 2) % 2 := by
  rw [parity, length_filter_getLsbD]
  obtain h | h := Nat.mod_two_eq_zero_or_one (∑ i ∈ Finset.range 16, v.toNat / 2 ^ i % 2) <;> simp [h]

/-- A periodic shift moves every bit down by one, bit 0 to the top. -/
theorem getLsbD_periodic_shift (mask lfsr : BitVec 16) {i : Nat} (hi : i < 16) :
    (shiftLfsr mask false lfsr).getLsbD i = lfsr.getLsbD ((i + 1) % 16) := by
  simp only [shiftLfsr, Bool.false_eq_true, if_false, BitVec.getLsbD_append, BitVec.getLsbD_extractLsb']
  by_cases htop : i < 15
  · simp [htop, Nat.mod_eq_of_lt (show i + 1 < 16 by omega), Nat.add_comm]
  · obtain rfl : i = 15 := by omega
    simp

theorem getLsbD_periodic_shifts (mask lfsr : BitVec 16) (n : Nat) {i : Nat} (hi : i < 16) :
    ((shiftLfsr mask false)^[n] lfsr).getLsbD i = lfsr.getLsbD ((i + n) % 16) := by
  induction n generalizing i with
  | zero => rw [Function.iterate_zero_apply, Nat.add_zero, Nat.mod_eq_of_lt hi]
  | succ n ih =>
    rw [Function.iterate_succ_apply', getLsbD_periodic_shift mask _ hi, ih (Nat.mod_lt _ (by decide)), Nat.mod_add_mod,
      Nat.add_assoc, Nat.add_comm 1 n]

/-- Settles O46: sixteen periodic shifts are a whole turn. -/
theorem shiftFeedsBackBitOrParity : Obligations.ShiftFeedsBackBitOrParity := by
  intro mask lfsr
  refine ⟨?_, ?_, ?_⟩
  · rw [shiftLfsr_toNat, feedback, if_neg Bool.false_ne_true, getLsbD_zero_toNat]
  · rw [shiftLfsr_toNat, feedback, if_pos rfl, parity_toNat]
  · refine BitVec.eq_of_getLsbD_eq fun i hi => ?_
    rw [getLsbD_periodic_shifts mask lfsr 16 hi, Nat.add_mod_right, Nat.mod_eq_of_lt hi]

/-- A shift that gives 0 shifted 0 or 1 and fed back 0. -/
theorem shiftLfsr_eq_zero {mask : BitVec 16} {white : Bool} {lfsr : BitVec 16} (h : shiftLfsr mask white lfsr = 0) :
    (lfsr = 0 ∨ lfsr = 1) ∧ feedback mask white lfsr = false := by
  have hnat : 0 = lfsr.toNat / 2 + 32768 * (feedback mask white lfsr).toNat :=
    (congrArg BitVec.toNat h).symm.trans (shiftLfsr_toNat mask white lfsr)
  have hsmall : lfsr.toNat = 0 ∨ lfsr.toNat = 1 := by omega
  refine ⟨hsmall.imp (fun h0 => BitVec.eq_of_toNat_eq h0) (fun h1 => BitVec.eq_of_toNat_eq h1), ?_⟩
  exact Bool.toNat_eq_zero.mp (by omega)

theorem shiftLfsr_zero (mask : BitVec 16) (white : Bool) : shiftLfsr mask white 0 = 0 := by
  have hback : feedback mask white 0 = false := by
    cases white with
    | true => exact (congrArg parity BitVec.zero_and).trans (by decide)
    | false => rfl
  exact BitVec.eq_of_toNat_eq (by rw [shiftLfsr_toNat, hback]; rfl)

/-- Settles O47: from 1 the feedback is 1, in white mode because the mask taps bit 0. -/
theorem shiftReachesZeroOnlyFromZero : Obligations.ShiftReachesZeroOnlyFromZero := by
  intro mask lfsr
  refine ⟨shiftLfsr_zero mask false, shiftLfsr_zero mask true, fun hne hzero => ?_, fun hne hodd hzero => ?_⟩
  · obtain ⟨rfl | rfl, hback⟩ := shiftLfsr_eq_zero hzero
    · exact hne rfl
    · cases hback
  · obtain ⟨rfl | rfl, hback⟩ := shiftLfsr_eq_zero hzero
    · exact hne rfl
    · have htapped : (1 : BitVec 16) &&& mask = 1 :=
        BitVec.eq_of_toNat_eq (by rw [BitVec.toNat_and]; exact (Nat.one_and_eq_mod_two _).trans hodd)
      rw [feedback, if_pos rfl, htapped] at hback
      exact absurd hback (by decide)

theorem noiseWhite_eq (rf : RegFile) : noiseWhite rf = decide (rf.nctrl.toNat / 4 % 2 = 1) := by
  rw [noiseWhite, ← BitVec.testBit_toNat, Nat.testBit_eq_decide_div_mod_eq]

/-- Settles O48: `synTick` channel by channel. -/
theorem tickStepsEveryChannel : Obligations.TickStepsEveryChannel := by
  intro p rf syn
  rw [← noiseWhite_eq]
  exact ⟨rfl, rfl, rfl, rfl, rfl⟩

end Sys2Proof.Machine

/-! ## The mix and the PCM space (20_memory R70, 43_synthesis R170 to R199) -/

namespace Sys2Proof.Machine

open Sys2Proof.Safety

/-! ### PcmAdd and one tick -/

theorem pcmAdd_of_fits {i : Nat} {v : Int} {s : State} (hi : i < s.pcm.slots)
    (hv : -32768 ≤ readSlot s.pcm i + v ∧ readSlot s.pcm i + v ≤ 32767) :
    ∃ t, pcmAdd i v s = .next t := by
  unfold pcmAdd
  rw [if_pos hi, if_pos hv]
  exact ⟨_, rfl⟩

/-- A PcmAdd that completes: its frame, and every slot. -/
theorem pcmAdd_slots {i : Nat} {v : Int} {s t : State} (h : pcmAdd i v s = .next t) (hw : Cells.wf s.pcm.cells = true) :
    t = { s with pcm := t.pcm } ∧ t.pcm.slots = s.pcm.slots ∧
      ∀ j, readSlot t.pcm j = if j = i then readSlot s.pcm i + v else readSlot s.pcm j := by
  obtain ⟨hframe, hslots⟩ := pcmAdd_frame h
  refine ⟨hframe, hslots, fun j => ?_⟩
  rw [pcmAdd_adds h hw]
  split
  · next e => rw [e]
  · rw [add_zero]

/-- Settles O50: the three branches of `pcmAdd`. -/
theorem pcmAddAccumulatesOrRefuses : Obligations.PcmAddAccumulatesOrRefuses := by
  intro s i v hw
  refine ⟨fun hi hlow hhigh => ?_, fun hi hout => ?_, fun hi => ?_⟩
  · obtain ⟨t, h⟩ := pcmAdd_of_fits hi ⟨hlow, hhigh⟩
    exact ⟨t, h, pcmAdd_slots h hw⟩
  · rw [pcmAdd, if_pos hi, if_neg (by omega)]
  · rw [pcmAdd, if_neg (by omega)]

/-- The model's division toward zero is Lean's. -/
theorem tdiv_eq (a : Int) (b : Nat) : tdiv a b = Int.tdiv a b := by
  have hnat : ∀ n : Nat, tdiv n b = Int.tdiv n b := by
    intro n
    by_cases hn : n = 0
    · subst hn
      simp [tdiv]
    · rw [tdiv, Int.sign_natCast_of_ne_zero hn, one_mul, Int.natAbs_natCast]
      rfl
  obtain ⟨n, rfl | rfl⟩ := Int.eq_nat_or_neg a
  · exact hnat n
  · rw [Int.neg_tdiv, ← hnat]
    simp only [tdiv, Int.sign_neg, Int.natAbs_neg, neg_mul]

theorem polaritySign_eq (pol : Polarity) : polaritySign pol = if pol = .plus then 1 else -1 := by
  cases pol <;> rfl

theorem noiseSign_eq (lfsr : BitVec 16) : noiseSign lfsr = if lfsr.toNat % 2 = 1 then 1 else -1 := by
  rw [noiseSign, ← getLsbD_zero_toNat]
  cases lfsr.getLsbD 0 <;> rfl

theorem renderTick_mono {s : State} (h : s.params.stereo = false) (k : Nat) :
    renderTick k s = pcmAdd k (monoSample s.params s.rf (synTick s.params s.rf s.syn))
      { s with syn := synTick s.params s.rf s.syn } := by
  simp only [renderTick, h, Bool.false_eq_true, if_false]

theorem renderTick_stereo {s : State} (h : s.params.stereo = true) (k : Nat) :
    renderTick k s = andThen (pcmAdd (2 * k) (leftSample s.params s.rf (synTick s.params s.rf s.syn))
        { s with syn := synTick s.params s.rf s.syn })
      (pcmAdd (2 * k + 1) (rightSample s.params s.rf (synTick s.params s.rf s.syn))) := by
  simp only [renderTick, h, if_true]

/-- Two PcmAdds to different slots, both of which fit. -/
theorem pcmAdd_two {i j : Nat} {v w : Int} {s : State} (hw : Cells.wf s.pcm.cells = true) (hij : i ≠ j)
    (hi : i < s.pcm.slots) (hj : j < s.pcm.slots)
    (hv : -32768 ≤ readSlot s.pcm i + v ∧ readSlot s.pcm i + v ≤ 32767)
    (hv' : -32768 ≤ readSlot s.pcm j + w ∧ readSlot s.pcm j + w ≤ 32767) :
    ∃ t, andThen (pcmAdd i v s) (pcmAdd j w) = .next t ∧ t = { s with pcm := t.pcm } ∧ t.pcm.slots = s.pcm.slots ∧
      ∀ l, readSlot t.pcm l =
        if l = i then readSlot s.pcm i + v else if l = j then readSlot s.pcm j + w else readSlot s.pcm l := by
  obtain ⟨u, hu⟩ := pcmAdd_of_fits hi hv
  obtain ⟨huframe, huslots, huread⟩ := pcmAdd_slots hu hw
  have hother : readSlot u.pcm j = readSlot s.pcm j := by rw [huread, if_neg hij.symm]
  obtain ⟨t, ht⟩ := pcmAdd_of_fits (by rw [huslots]; exact hj) (by rw [hother]; exact hv')
  obtain ⟨htframe, htslots, htread⟩ := pcmAdd_slots ht (pcmAdd_keeps_wf hu hw)
  refine ⟨t, andThen_eq_next.mpr ⟨u, hu, ht⟩, by rw [htframe, huframe], htslots.trans huslots, fun l => ?_⟩
  rw [htread, hother, huread]
  split_ifs with hlj hli
  · exact absurd (hli.symm.trans hlj) hij
  all_goals rfl

/-- Settles O49: the mix in the spec's own words, added by one PcmAdd or by two. -/
theorem tickMixesIntoItsSlots : Obligations.TickMixesIntoItsSlots := by
  intro s k hw syn amp sign s0 s1 s2 s3 m l r
  have hsamples : channelSamples s.params s.rf syn = #v[s0, s1, s2, s3] := by
    simp only [channelSamples, polaritySign_eq, noiseSign_eq]
    rfl
  have hm : monoSample s.params s.rf syn = m := by
    rw [monoSample, hsamples, tdiv_eq]
    rfl
  have hl : leftSample s.params s.rf syn = l := by
    rw [leftSample, hsamples, tdiv_eq, Nat.cast_mul]
    rfl
  have hr : rightSample s.params s.rf syn = r := by
    rw [rightSample, hsamples, tdiv_eq, Nat.cast_mul]
    rfl
  refine ⟨fun hmono hk hlow hhigh => ?_, fun hstereo hk hllow hlhigh hrlow hrhigh => ?_⟩
  · rw [renderTick_mono hmono, hm]
    obtain ⟨t, h⟩ := pcmAdd_of_fits (s := { s with syn := syn }) hk ⟨hlow, hhigh⟩
    exact ⟨t, h, pcmAdd_slots h hw⟩
  · rw [renderTick_stereo hstereo, hl, hr]
    exact pcmAdd_two (s := { s with syn := syn }) hw (by omega) (by show 2 * k < s.pcm.slots; omega) hk
      ⟨hllow, hlhigh⟩ ⟨hrlow, hrhigh⟩

/-! ### Render -/

/-- Settles O51, by induction on the first number of frames. -/
theorem renderSplitsAnywhere : Obligations.RenderSplitsAnywhere := by
  intro a b dst s
  induction a generalizing dst s with
  | zero => rw [Nat.zero_add, render_zero, andThen_next, Nat.add_zero]
  | succ a ih =>
    rw [Nat.succ_add, render_succ, render_succ, andThen_assoc]
    congr 1
    funext t
    rw [ih, Nat.add_assoc, Nat.add_comm 1 a]

/-- The slots of a frame (20_memory R69). -/
def frameWidth (p : Params) : Nat := if p.stereo = true then 2 else 1

theorem pcmAdd_other {i j : Nat} {v : Int} {s t : State} (h : pcmAdd i v s = .next t) (hj : j ≠ i) :
    readSlot t.pcm j = readSlot s.pcm j := by
  obtain ⟨-, -, -, rfl⟩ := pcmAdd_next h
  simp only [readSlot]
  rw [Cells.read_write_other hj]

/-- A tick leaves the slots outside its frame alone. -/
theorem renderTick_other {k i : Nat} {s t : State} (h : renderTick k s = .next t)
    (hi : i < frameWidth s.params * k ∨ frameWidth s.params * (k + 1) ≤ i) : readSlot t.pcm i = readSlot s.pcm i := by
  unfold frameWidth at hi
  obtain ⟨hmono, h⟩ | ⟨hstereo, u, h1, h2⟩ := renderTick_next h
  · rw [hmono, if_neg Bool.false_ne_true] at hi
    have hkept := pcmAdd_other h (show i ≠ k by omega)
    exact hkept
  · rw [if_pos hstereo] at hi
    have hleft := pcmAdd_other h1 (show i ≠ 2 * k by omega)
    have hright := pcmAdd_other h2 (show i ≠ 2 * k + 1 by omega)
    exact hright.trans hleft

theorem render_other {n dst i : Nat} {s t : State} (h : render n dst s = .next t)
    (hi : i < frameWidth s.params * dst ∨ frameWidth s.params * (dst + n) ≤ i) :
    readSlot t.pcm i = readSlot s.pcm i := by
  induction n generalizing dst s with
  | zero => cases h; rfl
  | succ n ih =>
    obtain ⟨u, htick, hrest⟩ := andThen_eq_next.mp h
    obtain ⟨hparams, -, -⟩ := renderTick_inputs htick
    have hgrow : frameWidth s.params * dst ≤ frameWidth s.params * (dst + 1) := Nat.mul_le_mul_left _ (Nat.le_succ dst)
    have hgrow' : frameWidth s.params * (dst + 1) ≤ frameWidth s.params * (dst + (n + 1)) :=
      Nat.mul_le_mul_left _ (by omega)
    have hlater : i < frameWidth u.params * (dst + 1) ∨ frameWidth u.params * (dst + 1 + n) ≤ i := by
      rw [hparams, Nat.add_assoc, Nat.add_comm 1 n]
      omega
    exact (ih hrest hlater).trans (renderTick_other htick (by omega))

/-- The host's call Render answers what `render` answers, with nothing changed but `ret`. -/
theorem step_render {n dst : Nat} {s : State} {rest : List HostCall} (ha : s.active = .idle)
    (hc : s.calls = .render n dst :: rest) :
    step s = andThen (render n dst { s with calls := rest }) fun t => .next { t with ret := .done } := by
  rw [step_call ha hc]
  change andThen (render n dst { s with calls := rest }) (fun t => .next (finish .done t)) = _
  cases h : render n dst { s with calls := rest } with
  | next t =>
    have hidle : t.active = .idle := by rw [render_frame h]; exact ha
    simp only [andThen_next, finish_of_idle hidle]
  | fault e => rfl
  | refused e => rfl

/-- Settles O52: `step_render`, and `render_other` for the slots. -/
theorem renderTouchesOnlyItsFrames : Obligations.RenderTouchesOnlyItsFrames := by
  refine ⟨fun n dst s rest ha hc => step_render ha hc, fun n dst s t h => ?_⟩
  exact ⟨render_frame h, render_keeps_slots h, fun i hi => render_other h hi⟩

/-! ### When Render completes -/

/-- A tick whose sums fit 16 bits completes. -/
theorem renderTick_completes {k : Nat} {s : State} (hw : Cells.wf s.pcm.cells = true)
    (hslots : frameWidth s.params * (k + 1) ≤ s.pcm.slots)
    (hfit : ∀ i, frameWidth s.params * k ≤ i → i < frameWidth s.params * (k + 1) →
      -32768 ≤ readSlot s.pcm i + tickAdds s.params s.rf s.syn k i ∧
        readSlot s.pcm i + tickAdds s.params s.rf s.syn k i ≤ 32767) :
    ∃ t, renderTick k s = .next t := by
  unfold frameWidth tickAdds at *
  cases hstereo : s.params.stereo with
  | false =>
    simp only [hstereo, Bool.false_eq_true, if_false, one_mul] at hslots hfit
    rw [renderTick_mono hstereo]
    exact pcmAdd_of_fits (s := { s with syn := _ }) (show k < s.pcm.slots by omega)
      (by simpa using hfit k le_rfl (Nat.lt_succ_self k))
  | true =>
    simp only [hstereo, if_true] at hslots hfit
    rw [renderTick_stereo hstereo]
    have hleft := hfit (2 * k) le_rfl (by omega)
    have hright := hfit (2 * k + 1) (by omega) (by omega)
    obtain ⟨t, h, -⟩ := pcmAdd_two (s := { s with syn := synTick s.params s.rf s.syn }) (i := 2 * k) (j := 2 * k + 1)
      (v := leftSample s.params s.rf (synTick s.params s.rf s.syn))
      (w := rightSample s.params s.rf (synTick s.params s.rf s.syn)) hw (by omega)
      (show 2 * k < s.pcm.slots by omega) (show 2 * k + 1 < s.pcm.slots by omega) (by simpa using hleft)
      (by simpa using hright)
    exact ⟨t, h⟩

/-- Render completes where, whatever SYN has come to, what a tick adds to a slot of its frame fits. -/
theorem render_completes {n dst : Nat} {s : State} (hw : Cells.wf s.pcm.cells = true)
    (hslots : frameWidth s.params * (dst + n) ≤ s.pcm.slots)
    (hfit : ∀ syn k i, frameWidth s.params * dst ≤ i → i < frameWidth s.params * (dst + n) →
      -32768 ≤ readSlot s.pcm i + tickAdds s.params s.rf syn k i ∧
        readSlot s.pcm i + tickAdds s.params s.rf syn k i ≤ 32767) :
    ∃ t, render n dst s = .next t := by
  induction n generalizing dst s with
  | zero => exact ⟨s, rfl⟩
  | succ n ih =>
    have hgrow : frameWidth s.params * dst ≤ frameWidth s.params * (dst + 1) := Nat.mul_le_mul_left _ (Nat.le_succ dst)
    have hgrow' : frameWidth s.params * (dst + 1) ≤ frameWidth s.params * (dst + (n + 1)) :=
      Nat.mul_le_mul_left _ (by omega)
    obtain ⟨u, htick⟩ := renderTick_completes (k := dst) hw (by omega)
      fun i hlow hhigh => hfit s.syn dst i hlow (by omega)
    obtain ⟨hparams, hrf, -⟩ := renderTick_inputs htick
    have hlast : dst + 1 + n = dst + (n + 1) := by omega
    obtain ⟨t, hrest⟩ := ih (dst := dst + 1) (s := u) (renderTick_keeps_wf htick hw)
      (by rw [hparams, (renderTick_frame htick).2, hlast]; exact hslots) (by
        intro syn k i hlow hhigh
        rw [hparams] at hlow hhigh
        rw [hlast] at hhigh
        rw [hparams, hrf, renderTick_other htick (.inr hlow)]
        exact hfit syn k i (by omega) hhigh)
    exact ⟨t, andThen_eq_next.mpr ⟨u, htick, hrest⟩⟩

/-! ### The headroom of a legal configuration (00_scope R10) -/

/-- The amplitudes fall, so each is at most VOL[0]. -/
theorem vol_le_first {p : Params} {len : Nat} (h : p.legal len = true) {a : Nat} (ha : a < 16) :
    p.vol[a] ≤ p.vol[0] := by
  obtain ⟨-, -, -, -, -, -, -, -, hfalls, -⟩ := (legalIsEveryConstraint p len).mp h
  induction a with
  | zero => exact le_rfl
  | succ a ih => exact (hfalls a (by omega)).trans (ih (by omega))

theorem natAbs_polaritySign (pol : Polarity) : (polaritySign pol).natAbs = 1 := by
  cases pol <;> rfl

theorem natAbs_noiseSign (lfsr : BitVec 16) : (noiseSign lfsr).natAbs = 1 := by
  rw [noiseSign]
  cases lfsr.getLsbD 0 <;> rfl

theorem natAbs_sign_mul_amplitude_le {p : Params} {len : Nat} (h : p.legal len = true) {sign : Int}
    (hs : sign.natAbs = 1) (att : BitVec 4) : (sign * amplitude p att).natAbs ≤ p.vol[0] := by
  rw [Int.natAbs_mul, hs, one_mul, amplitude, Int.natAbs_natCast]
  exact vol_le_first h att.isLt

theorem natAbs_channelSamples_le {p : Params} {len : Nat} (h : p.legal len = true) (rf : RegFile) (syn : Synth)
    {c : Nat} (hc : c < 4) : ((channelSamples p rf syn)[c]).natAbs ≤ p.vol[0] := by
  obtain rfl | rfl | rfl | rfl : c = 0 ∨ c = 1 ∨ c = 2 ∨ c = 3 := by omega
  · exact natAbs_sign_mul_amplitude_le h (natAbs_polaritySign syn.pol0) rf.att0
  · exact natAbs_sign_mul_amplitude_le h (natAbs_polaritySign syn.pol1) rf.att1
  · exact natAbs_sign_mul_amplitude_le h (natAbs_polaritySign syn.pol2) rf.att2
  · exact natAbs_sign_mul_amplitude_le h (natAbs_noiseSign syn.lfsr) rf.natt

theorem natAbs_add_four_le {a b c d : Int} {n : Nat} (ha : a.natAbs ≤ n) (hb : b.natAbs ≤ n) (hc : c.natAbs ≤ n)
    (hd : d.natAbs ≤ n) : (a + b + c + d).natAbs ≤ 4 * n := by
  omega

theorem natAbs_mul_pan_le {a : Int} {v w den : Nat} (ha : a.natAbs ≤ v) (hw : w ≤ den) :
    (a * (w : Int)).natAbs ≤ v * den := by
  rw [Int.natAbs_mul, Int.natAbs_natCast]
  exact Nat.mul_le_mul ha hw

/-- A quotient toward zero is no larger than its bound's. -/
theorem tdiv_bounds {a : Int} {b c : Nat} (h : a.natAbs ≤ b * c) : -(c : Int) ≤ tdiv a b ∧ tdiv a b ≤ c := by
  have hquot : (tdiv a b).natAbs ≤ c := by
    rw [tdiv_eq, Int.natAbs_tdiv, Int.natAbs_natCast]
    exact Nat.div_le_of_le_mul h
  omega

theorem monoSample_bounds {p : Params} {len : Nat} (h : p.legal len = true) (rf : RegFile) (syn : Synth) :
    -32767 ≤ monoSample p rf syn ∧ monoSample p rf syn ≤ 32767 := by
  obtain ⟨-, -, -, -, -, -, -, -, -, -, -, -, -, -, -, -, -, hheadroom⟩ := (legalIsEveryConstraint p len).mp h
  have hs := fun {c : Nat} (hc : c < 4) => natAbs_channelSamples_le h rf syn hc
  have hmix : (monoMix (channelSamples p rf syn)).natAbs ≤ 4 * p.vol[0] :=
    natAbs_add_four_le (hs (by decide)) (hs (by decide)) (hs (by decide)) (hs (by decide))
  exact tdiv_bounds (c := 32767) (by omega)

theorem panned_bounds {p : Params} {len : Nat} (h : p.legal len = true) (rf : RegFile) (syn : Synth)
    {pan : Vector Nat 4} (hpan : ∀ c, (hc : c < 4) → pan[c] ≤ p.panDen) :
    -32767 ≤ tdiv (panMix pan (channelSamples p rf syn)) (p.panDen * p.outDiv) ∧
      tdiv (panMix pan (channelSamples p rf syn)) (p.panDen * p.outDiv) ≤ 32767 := by
  obtain ⟨-, -, -, -, -, -, -, -, -, -, -, -, -, -, -, -, -, hheadroom⟩ := (legalIsEveryConstraint p len).mp h
  have hs := fun {c : Nat} (hc : c < 4) => natAbs_mul_pan_le (natAbs_channelSamples_le h rf syn hc) (hpan c hc)
  have hmix : (panMix pan (channelSamples p rf syn)).natAbs ≤ 4 * (p.vol[0] * p.panDen) :=
    natAbs_add_four_le (hs (by decide)) (hs (by decide)) (hs (by decide)) (hs (by decide))
  refine tdiv_bounds (c := 32767) (hmix.trans ?_)
  calc 4 * (p.vol[0] * p.panDen) = p.panDen * (4 * p.vol[0]) := by ring
    _ ≤ p.panDen * (32767 * p.outDiv) := Nat.mul_le_mul_left _ hheadroom
    _ = p.panDen * p.outDiv * 32767 := by ring

/-- What a tick adds to a slot under a legal configuration is a 16-bit value. -/
theorem tickAdds_bounds {p : Params} {len : Nat} (h : p.legal len = true) (rf : RegFile) (syn : Synth) (k i : Nat) :
    -32767 ≤ tickAdds p rf syn k i ∧ tickAdds p rf syn k i ≤ 32767 := by
  obtain ⟨-, -, -, -, hpan, -⟩ := (legalIsEveryConstraint p len).mp h
  have hmono := monoSample_bounds h rf (synTick p rf syn)
  have hleft : -32767 ≤ leftSample p rf (synTick p rf syn) ∧ leftSample p rf (synTick p rf syn) ≤ 32767 :=
    panned_bounds h rf _ fun c hc => (hpan c hc).1
  have hright : -32767 ≤ rightSample p rf (synTick p rf syn) ∧ rightSample p rf (synTick p rf syn) ≤ 32767 :=
    panned_bounds h rf _ fun c hc => (hpan c hc).2
  simp only [tickAdds]
  split_ifs <;> omega

/-- Settles O53: on zero slots every sum is what one tick adds. -/
theorem renderCompletesOnZeroSlots : Obligations.RenderCompletesOnZeroSlots := by
  intro n dst s hlegal hw width hslots hzero
  obtain ⟨t, h⟩ : ∃ t, render n dst s = .next t := render_completes hw hslots fun syn k i hlow hhigh => by
    obtain ⟨hmin, hmax⟩ := tickAdds_bounds hlegal s.rf syn k i
    rw [hzero i hlow hhigh, zero_add]
    omega
  refine ⟨t, h, fun rest => ?_⟩
  rw [step_render rfl rfl]
  refine andThen_eq_next.mpr
    ⟨_, render_congr (s := s) (s' := { s with active := .idle, calls := rest }) rfl rfl rfl rfl h, ?_⟩
  rw [render_frame h]

/-! ### Silence after Reset (43_synthesis R199) -/

/-- With every attenuation at 15 all four samples are 0. -/
theorem channelSamples_silent {p : Params} {len : Nat} (h : p.legal len = true) (syn : Synth) :
    channelSamples p RegFile.reset syn = #v[0, 0, 0, 0] := by
  obtain ⟨-, -, -, -, -, -, -, hlast, -⟩ := (legalIsEveryConstraint p len).mp h
  have hamp : amplitude p 15 = 0 := congrArg Nat.cast hlast
  simp only [channelSamples, RegFile.reset, hamp, mul_zero]

theorem tdiv_zero (b : Nat) : tdiv 0 b = 0 := by
  simp [tdiv]

theorem tickAdds_silent {p : Params} {len : Nat} (h : p.legal len = true) (syn : Synth) (k i : Nat) :
    tickAdds p RegFile.reset syn k i = 0 := by
  have hpan : ∀ pan, panMix pan #v[0, 0, 0, 0] = 0 := fun pan => by simp [panMix]
  simp only [tickAdds, monoSample, leftSample, rightSample, channelSamples_silent h, hpan,
    show monoMix #v[0, 0, 0, 0] = 0 from rfl, tdiv_zero, ite_self, add_zero]

theorem renderAdds_silent {p : Params} {len : Nat} (h : p.legal len = true) (n dst : Nat) (syn : Synth) (i : Nat) :
    renderAdds p RegFile.reset n dst syn i = 0 := by
  induction n generalizing dst syn with
  | zero => rfl
  | succ n ih => rw [renderAdds, tickAdds_silent h, ih, add_zero]

/-- Every polarity is plus. -/
def AllPlus (syn : Synth) : Prop := syn.pol0 = .plus ∧ syn.pol1 = .plus ∧ syn.pol2 = .plus

/-- Tone registers of 0 pin the three channels. -/
theorem synTick_silent (p : Params) (syn : Synth) : AllPlus (synTick p RegFile.reset syn) := by
  simp [AllPlus, synTick, RegFile.reset, toneStep_pinned]

theorem render_silent_polarities {n dst : Nat} {s t : State} (h : render n dst s = .next t)
    (hrf : s.rf = RegFile.reset) (hplus : AllPlus s.syn) : AllPlus t.syn := by
  rw [render_syn h, hrf]
  cases n with
  | zero => exact hplus
  | succ n =>
    rw [Function.iterate_succ_apply']
    exact synTick_silent _ _

/-- A slot holds a signed 16-bit value. -/
theorem readSlot_bounds (b : PcmBuffer) (i : Nat) : -32768 ≤ readSlot b i ∧ readSlot b i ≤ 32767 := by
  have hlow := BitVec.le_toInt (Cells.read b.cells i)
  have hhigh := BitVec.toInt_lt (x := Cells.read b.cells i)
  unfold readSlot
  omega

/-- Settles O54: attenuation 15 has amplitude 0, and tone registers of 0 pin the polarities. -/
theorem silenceAfterReset : Obligations.SilenceAfterReset := by
  intro n dst s hlegal hw hrf hp0 hp1 hp2 width hslots
  obtain ⟨t, h⟩ : ∃ t, render n dst s = .next t := render_completes hw hslots fun syn k i _ _ => by
    rw [hrf, tickAdds_silent hlegal, add_zero]
    exact readSlot_bounds s.pcm i
  refine ⟨t, h, fun i => ?_, render_silent_polarities h hrf ⟨hp0, hp1, hp2⟩⟩
  rw [render_adds h hw, hrf, renderAdds_silent hlegal, add_zero]

end Sys2Proof.Machine
